-- ==== Sys2Proof/Word.lean ====
section
/-! DEFINITION. The word types of the block: a 64-bit value (00_scope.md R9) and a byte. -/

namespace Sys2Proof

/-- A 64-bit unsigned value: a state word, a register value, a command word (R9, R20, R59). -/
abbrev Word := BitVec 64

/-- A byte: an input byte, or a byte of the digest (R28, R82). -/
abbrev Byte := BitVec 8

end Sys2Proof
end

