-- ==== Sys2Proof/Syntax.lean ====
section
/-! DEFINITION. The three commands of the block (30_encoding.md R81). -/

namespace Sys2Proof

/-- A command, one constructor per row of the opcode map (R81). -/
inductive Instr where
  /-- RESET: return to the fresh state (R150). -/
  | reset
  /-- CONSUME: one mixing round keyed by the operand byte (R120). -/
  | consume (b : Byte)
  /-- DIGEST: start the finalization sequencer (R130). -/
  | digest
  deriving DecidableEq, Repr

end Sys2Proof
end

