-- ==== Sys2Proof/Decode.lean ====
section
/-! DEFINITION. The command decoder, total on every 64-bit word (30_encoding.md R83), and the encoder
(R86). -/

namespace Sys2Proof

/-- RSV, bits 63:16 of a command word (R80). -/
def fieldRsv (v : Word) : BitVec 48 := v.extractLsb' 16 48

/-- OP, bits 15:8 of a command word (R80). -/
def fieldOp (v : Word) : Byte := v.extractLsb' 8 8

/-- OPND, bits 7:0 of a command word (R80). -/
def fieldOpnd (v : Word) : Byte := v.extractLsb' 0 8

/-- Why a command word is illegal (R84, R171). -/
inductive IllegalWord where
  /-- RSV is not 0 -/
  | reservedBits
  /-- OP is none of 0x01, 0x02, 0x03 -/
  | unknownOpcode
  /-- RESET or DIGEST with OPND not 0 -/
  | operandNotZero
  deriving DecidableEq, Repr

/-- What a command word decodes to (R83). -/
inductive Decoded where
  | instr (i : Instr)
  | illegal (why : IllegalWord)
  deriving DecidableEq, Repr

/-- The decoder of R83: every word is one command or ILLEGAL, with the reason by name. -/
def decode (v : Word) : Decoded :=
  if fieldRsv v ≠ 0 then .illegal .reservedBits
  else if fieldOp v = 0x01 then
    if fieldOpnd v = 0 then .instr .reset else .illegal .operandNotZero
  else if fieldOp v = 0x02 then .instr (.consume (fieldOpnd v))
  else if fieldOp v = 0x03 then
    if fieldOpnd v = 0 then .instr .digest else .illegal .operandNotZero
  else .illegal .unknownOpcode

/-- A command word from its three fields (R80). -/
def commandWord (op opnd : Byte) : Word := (0 : BitVec 48) ++ op ++ opnd

/-- The encoder (R81, R86). -/
def encode : Instr → Word
  | .reset => commandWord 0x01 0x00
  | .consume b => commandWord 0x02 b
  | .digest => commandWord 0x03 0x00

/-- The mask of a command's row in the opcode table (R86). -/
def encodingMask : Instr → Word
  | .reset => 0xFFFFFFFFFFFFFFFF
  | .consume _ => 0xFFFFFFFFFFFFFF00
  | .digest => 0xFFFFFFFFFFFFFFFF

/-- The match of a command's row in the opcode table (R86). -/
def encodingMatch : Instr → Word
  | .reset => 0x0000000000000100
  | .consume _ => 0x0000000000000200
  | .digest => 0x0000000000000300

/-- The instruction read from a row's bits `w` of the opcode table. Every command is one 64-bit word
(R85) and a register value is a number (20_memory.md R59), so no byte order enters: the bits above
`nbits` are 0, and a number that 64 bits do not hold is no command word (log 2). -/
def decodeTableWord (nbits w : Nat) : Option Instr :=
  if w % 2 ^ nbits < 2 ^ 64 then
    match decode (BitVec.ofNat 64 (w % 2 ^ nbits)) with
    | .instr i => some i
    | .illegal _ => none
  else none

end Sys2Proof
end

