-- ==== Sys2Proof/Machine/Bus.lean ====
section
/-! DEFINITION. What passes between the host and the block: a transaction, its response, and the
events by which the host side moves (00_scope.md R12, R13; 20_memory.md R61, R62). -/

namespace Sys2Proof.Machine

/-- The direction of a host access (20_memory.md R61). -/
inductive AccessKind where
  | read
  | write
  deriving DecidableEq, Repr

/-- One host transaction: `HostAccess(kind, off, n, v)` of 20_memory.md R62. A read has no use of
`data`. -/
structure HostAccess where
  kind   : AccessKind
  /-- the distance from BASE in bytes; 30_encoding.md R87 gives an access any offset, and R62 answers for
  each (log 21) -/
  offset : Nat
  /-- the width of the access in bytes -/
  width  : Nat
  data   : Word
  deriving DecidableEq, Repr

/-- A write of the command word `v` to CMD (30_encoding.md R80). -/
def HostAccess.cmdWrite (v : Word) : HostAccess :=
  { kind := .write, offset := 0x00, width := 8, data := v }

/-- An 8-byte read at a window offset. -/
def HostAccess.readAt (off : Nat) : HostAccess :=
  { kind := .read, offset := off, width := 8, data := 0 }

/-- The response a transaction gets (20_memory.md R61, R62): ok or error, and a read's data. -/
structure Response where
  ok   : Bool
  /-- the value a read returns; `none` for a write -/
  data : Option Word
  deriving DecidableEq, Repr

/-- How the world outside the engine moves, one event for one step (log 1, DESIGN CHOICE). -/
inductive HostEvent where
  /-- the host issues a transaction (00_scope.md R13) -/
  | issue (t : HostAccess)
  /-- the host is silent: the engine, or the transaction outstanding, has the step -/
  | quiet
  /-- the WAIT of 30_encoding.md R91: STATUS is read until BUSY reads 0. `sent` says that a read has
  just answered BUSY = 1, so that the engine has the next step (log 15) -/
  | poll (sent : Bool)
  /-- the hardware reset input (70_reset_and_hazards.md R200) -/
  | reset
  deriving DecidableEq, Repr

end Sys2Proof.Machine
end

