-- ==== Sys2Proof/Config.lean ====
section
/-! DEFINITION. The configuration of an instance (00_scope.md R6, R7): the constant tables and the
parameters that the spec leaves OPEN, and the free value of the one response it leaves to the
platform. -/

namespace Sys2Proof

/-- The five constant tables with the shapes of 00_scope.md R7 and 20_memory.md R51 to R55. The index
types carry the shapes: 6 words, 257 rows, 256 permutation rows with entries in [0, 5], 48 selectors in
[0, 47]. -/
structure Tables where
  initVector    : Fin 6 → Word
  xorRows       : Fin 257 → Fin 6 → Word
  addRows       : Fin 257 → Fin 6 → Word
  permRows      : Fin 256 → Fin 6 → Fin 6
  finalSelector : Fin 48 → Fin 48
  deriving Inhabited

/-- The version triple, 8 bits a field (10_state.md R34). -/
structure Version where
  major : BitVec 8
  minor : BitVec 8
  patch : BitVec 8
  deriving DecidableEq, Repr, Inhabited

/-- A well-formed configuration (00_scope.md R6, R7). It is fixed for the life of an instance and no
part of its state. -/
structure Config where
  tables       : Tables
  /-- the multiplier of `mix64` -/
  mixK         : Word
  mixK_odd     : mixK.getLsbD 0 = true
  version      : Version
  lockOnDigest : Bool

/-- The source's multiplier `K` (00_scope.md R6, 40_mixing.md R100). -/
def Config.sourceMixK : Word := 0x9DDFEA08EB382D69

/-- `TABLES`, OPEN: the source gives no contents (93 I2, log 6). -/
opaque Config.openTables : Tables

/-- `VERSION`, OPEN (93 I3, log 8). -/
opaque Config.openVersion : Version

/-- `LOCK_ON_DIGEST`, OPEN (93 I1, log 7). -/
opaque Config.openLockOnDigest : Bool

/-- The configuration of the machine: every OPEN parameter is an opaque constant, and `MIX_K` has its
only known value (92 D19, log 9). -/
def Config.machine : Config where
  tables := Config.openTables
  mixK := Config.sourceMixK
  mixK_odd := by decide
  version := Config.openVersion
  lockOnDigest := Config.openLockOnDigest

/-- How many instances the platform has beyond the first (log 10). -/
opaque Config.furtherInstances : Nat

/-- `N_INSTANCES`, OPEN, at least 1 (00_scope.md R6, R181). -/
def Config.nInstances : Nat := Config.furtherInstances + 1

/-- `BASE` of each instance, OPEN (20_memory.md R60, R70, log 10). -/
opaque Config.base : Nat → Nat

/-- FREE VALUE: the response, if any, that the host gets for a transaction which the hardware reset
discards (70_reset_and_hazards.md R200, 93 I5, 92 D33, log 4). Its argument numbers the draws. -/
opaque Config.discardedResponse : Nat → Option Machine.Response

/-- A table set as it is loaded, before any check (00_scope.md R7): lists of unchecked length, with the
entry widths of 20_memory.md R51 to R55. -/
structure RawConfig where
  initVector    : List Word
  xorRows       : List (List Word)
  addRows       : List (List Word)
  permRows      : List (List (BitVec 3))
  finalSelector : List (BitVec 6)
  mixK          : Word
  version       : Version
  lockOnDigest  : Bool
  deriving DecidableEq, Repr

end Sys2Proof
end

