-- ==== Sys2Proof/Machine/State.lean ====
section
/-! DEFINITION. The state of one instance (10_state.md R32), the reasons a step can stop, and the state
after reset (R39). -/

namespace Sys2Proof.Machine

/-- The sequencer mode (10_state.md R24). -/
inductive Mode where
  | idle
  | finalizing
  deriving DecidableEq, Repr

/-- The state of one instance. The fields to `port` are the record of 10_state.md R32; `host`, `resp`
and `draws` are the model's own (logs 1, 3, 4). -/
structure State where
  /-- `W[0..5]`, the digest state (R20) -/
  words  : Vector Word 6
  /-- `RND`, the round counter (R22) -/
  rnd    : BitVec 8
  /-- `FIN`, the completion flag (R23) -/
  fin    : Bool
  /-- `MODE` (R24) -/
  mode   : Mode
  /-- `FIDX`, the finalization index, 0..47 (R25) -/
  fidx   : BitVec 6
  /-- `FB`, the feedback register, 0..256 (R26) -/
  fb     : BitVec 9
  /-- `OB[0..47]`, the digest output buffer (R28) -/
  ob     : Vector Byte 48
  /-- `DVALID` (R29) -/
  dvalid : Bool
  /-- `ERR` (R30) -/
  err    : BitVec 4
  /-- the one host transaction that may be outstanding (R32), held by R210 -/
  port   : Option HostAccess
  /-- the events on the host's side still to come (model's own, log 1) -/
  host   : List HostEvent
  /-- the response of the last completed transaction (model's own, log 3) -/
  resp   : Option Response
  /-- how often the free value of 93 I5 was drawn (model's own, log 4) -/
  draws  : Nat
  deriving DecidableEq, Repr

/-- The faults. Both are for values that the spec says never occur; the invariant of 10_state.md R25 to
R27 rules them out, so no reachable state raises one (log 12). -/
inductive Fault where
  /-- Raised by the engine's step when FB holds 257..511, an index that is never presented to the row
  tables (10_state.md R26, 20_memory.md R52). Safe: the model stops. -/
  | rowIndexOutOfRange (n : BitVec 9)
  /-- Raised by the engine's step when FIDX holds 48..63 (10_state.md R25). Safe: the model stops. -/
  | selectorIndexOutOfRange (i : BitVec 6)
  deriving DecidableEq, Repr

/-- The refusals. -/
inductive Refusal where
  /-- Raised by no arm of `exec`: every command has its meaning. Safe: the model stops. -/
  | notModelled (mnemonic : String)
  /-- Raised by `boot` for a table set that fails the checks of 00_scope.md R7, fatal at startup, which
  defines no instance (93 I8). Safe: the spec has the model refuse it. -/
  | constantsCorrupt
  deriving DecidableEq, Repr

/-- The reset state of an instance of configuration `cfg` (10_state.md R39), with no transaction
outstanding and nothing yet to come from the host (log 5). -/
def State.resetOf (cfg : Config) : State where
  words := Vector.ofFn cfg.tables.initVector
  rnd := 0
  fin := false
  mode := .idle
  fidx := 0
  fb := 256
  ob := Vector.replicate 48 0x00
  dvalid := false
  err := 0
  port := none
  host := []
  resp := none
  draws := 0

/-- The machine right after the hardware reset (R39, 70_reset_and_hazards.md R200). -/
def State.reset : State := State.resetOf Config.machine

end Sys2Proof.Machine
end

