-- ==== Sys2Proof/Machine/Flags.lean ====
section
/-! DEFINITION. Every flag computation of the block: the error codes and the sticky error field
(60_exceptions.md R170, R172), and the STATUS word that shows the flags (10_state.md R33). The datapath
has no carry, overflow or comparison flag (40_mixing.md R108). -/

namespace Sys2Proof.Machine

/-- The errors that can be raised (60_exceptions.md R170). -/
inductive ErrorKind where
  | illegalCmd
  | invalidState
  | access
  deriving DecidableEq, Repr

/-- The code of an error as ERR shows it (R170). Codes 4..15 are never produced. -/
def errorCode : ErrorKind → BitVec 4
  | .illegalCmd => 1
  | .invalidState => 2
  | .access => 3

/-- `raise E` (R172): the first error since reset is kept, and nothing else changes. -/
def raise (e : ErrorKind) (s : State) : State :=
  if s.err = 0 then { s with err := errorCode e } else s

/-- BUSY: 1 exactly when MODE is FINALIZING (10_state.md R33). -/
def busy (s : State) : Bool := decide (s.mode = .finalizing)

/-- The STATUS register: `zext_64(ERR ++ LOCK ++ FIN ++ DVALID ++ BUSY)` (10_state.md R33). -/
def statusWord (cfg : Config) (s : State) : Word :=
  BitVec.zeroExtend 64
    (s.err ++ BitVec.ofBool cfg.lockOnDigest ++ BitVec.ofBool s.fin ++ BitVec.ofBool s.dvalid
      ++ BitVec.ofBool (busy s))

end Sys2Proof.Machine
end

