-- ==== Sys2Proof/Machine/Operands.lean ====
section
/-! DEFINITION. Every operand form: the row index that a command byte or the feedback register gives
(30_encoding.md R82, 40_mixing.md R104), the permutation row of the round counter and the selector of
the finalization index (20_memory.md R52 to R55). -/

namespace Sys2Proof.Machine

/-- `SENTINEL`, the extra row index (00_scope.md R6). -/
def sentinel : BitVec 9 := 256

/-- `zext_9` of a byte, the row index it selects (R82, 42_finalize.md R133). -/
def zext9 (b : Byte) : BitVec 9 := b.zeroExtend 9

/-- The row that a command byte names, one of 0..255: no command names row 256 (R82). -/
def rowOfByte (b : Byte) : Fin 257 := ⟨b.toNat, by have := b.isLt; omega⟩

/-- The row that a 9-bit index names, if the tables have it (20_memory.md R52). -/
def rowIndex? (n : BitVec 9) : Option (Fin 257) :=
  if h : n.toNat < 257 then some ⟨n.toNat, h⟩ else none

/-- The entry of FINAL_SELECTOR that FIDX names, if there is one (20_memory.md R55). -/
def selectorIndex? (i : BitVec 6) : Option (Fin 48) :=
  if h : i.toNat < 48 then some ⟨i.toNat, h⟩ else none

/-- The row of PERM_ROWS that the round counter names (20_memory.md R54). -/
def permIndex (rnd : BitVec 8) : Fin 256 := rnd.toFin

end Sys2Proof.Machine
end

