-- ==== Sys2Proof/Machine/Ops.lean ====
section
/-! DEFINITION. The shared operations: `mix64`, `transition` and the mixing round (40_mixing.md),
`extractByte` and the finalization round (42_finalize.md), and the two resets (43_control.md,
70_reset_and_hazards.md). The block takes no exception: raising an error (60_exceptions.md R172, R177)
is `raise` in Flags.lean, and nothing resembles a return from one. -/

namespace Sys2Proof.Machine

/-- The xorshift of `mix64`: `x XOR (x >>> 47)`, a logical shift (R101). -/
def xorShift (x : Word) : Word := x ^^^ (x >>> 47)

/-- `mix64(u, v)` with the multiplier `k` (R100); every step wraps at 64 bits (R101). -/
def mix64 (k u v : Word) : Word :=
  let b := xorShift ((v ^^^ u) * k)
  xorShift ((b ^^^ u) * k) * k

/-- Lane `i` of the substitution multiplexer (R104). -/
def lane (k : Word) (w : Vector Word 6) (x a : Fin 6 → Word) (p : Fin 6 → Fin 6) (i : Fin 6) : Word :=
  mix64 k (w[i] + a i) w[p i] ^^^ x i

/-- `transition(W, X, P, A)`: every lane reads the old state, and all six words are replaced together
(R103). -/
def transition (k : Word) (w : Vector Word 6) (x a : Fin 6 → Word) (p : Fin 6 → Fin 6) :
    Vector Word 6 :=
  Vector.ofFn (lane k w x a p)

/-- The words after a round of row `n` in round `rnd`, from the words `w` (R105). -/
def roundWords (cfg : Config) (n : Fin 257) (rnd : BitVec 8) (w : Vector Word 6) : Vector Word 6 :=
  transition cfg.mixK w (cfg.tables.xorRows n) (cfg.tables.addRows n)
    (cfg.tables.permRows (permIndex rnd))

/-- `MixRound(n)`: the permutation row is that of RND before the increment, and RND wraps at 256
(R105). -/
def mixRound (cfg : Config) (n : Fin 257) (s : State) : State :=
  { s with words := roundWords cfg n s.rnd s.words, rnd := s.rnd + 1 }

/-- `extractByte(W, s)`: byte `s` of the state read as 48 little-endian bytes (R131, 20_memory.md
R56). -/
def extractByte (w : Vector Word 6) (s : Fin 48) : Byte :=
  (w[s.val / 8]'(by omega)).extractLsb' (8 * (s.val % 8)) 8

/-- The part of a finalization round after the mixing round (R133): the byte is taken from the NEW words
and written to `OB[i]`; the last round ends the sequence, every other one feeds the byte back. -/
def emitByte (cfg : Config) (i : Fin 48) (s : State) : State :=
  let b := extractByte s.words (cfg.tables.finalSelector i)
  if i.val = 47 then
    { s with ob := s.ob.set i b, mode := .idle, fidx := 0, fb := sentinel, dvalid := true,
             fin := s.fin || cfg.lockOnDigest }
  else
    { s with ob := s.ob.set i b, fidx := s.fidx + 1, fb := zext9 b }

/-- `FinRound`, the engine's step (R133). It stops only for an index the tables do not have, which never
occurs (10_state.md R25, R26, log 12). -/
def finRound (cfg : Config) (s : State) : Host.Outcome State Fault Refusal :=
  match rowIndex? s.fb with
  | none => .fault (.rowIndexOutOfRange s.fb)
  | some n =>
    match selectorIndex? s.fidx with
    | none => .fault (.selectorIndexOutOfRange s.fidx)
    | some i => .next (emitByte cfg i (mixRound cfg n s))

/-- What RESET writes (43_control.md R150). MODE is not written: it is IDLE when a command is
accepted. -/
def commandReset (cfg : Config) (s : State) : State :=
  { s with
    words := Vector.ofFn cfg.tables.initVector, rnd := 0, fin := false, fidx := 0, fb := sentinel,
    ob := Vector.replicate 48 0x00, dvalid := false, err := 0 }

/-- Discarding the transaction outstanding, if there is one: no effect on the block's state, and the
host's response, if any, is a free value (70_reset_and_hazards.md R200, 93 I5, log 4). -/
def discardHeld (s : State) : State :=
  match s.port with
  | none => s
  | some _ => { s with port := none, resp := Config.discardedResponse s.draws, draws := s.draws + 1 }

/-- The hardware reset: every item of 10_state.md R39 to its reset value, and a held transaction
discarded (70_reset_and_hazards.md R200). -/
def hardwareReset (cfg : Config) (s : State) : State :=
  { commandReset cfg (discardHeld s) with mode := .idle }

end Sys2Proof.Machine
end

