-- ==== Sys2Proof/Machine/Control.lean ====
section
/-! DEFINITION. RESET (43_control.md). -/

namespace Sys2Proof.Machine

/-- RESET on an instance of configuration `cfg` (R150): no state check, it always succeeds. -/
def runReset (cfg : Config) (s : State) : Host.Outcome State Fault Refusal :=
  .next (commandReset cfg s)

/-- RESET (R150). -/
def execReset (s : State) : Host.Outcome State Fault Refusal := runReset Config.machine s

end Sys2Proof.Machine
end

