-- ==== Sys2Proof/Machine/Finalize.lean ====
section
/-! DEFINITION. DIGEST (42_finalize.md). The 48 rounds it starts are engine steps, `finRound`. -/

namespace Sys2Proof.Machine

/-- The sequencer set to its first round (R130). -/
def startFinalization (s : State) : State :=
  { s with mode := .finalizing, fidx := 0, fb := sentinel, dvalid := false }

/-- DIGEST (R130): the FIN check, then the start of finalization. -/
def execDigest (s : State) : Host.Outcome State Fault Refusal :=
  if s.fin then .next (raise .invalidState s) else .next (startFinalization s)

end Sys2Proof.Machine
end

