-- ==== Sys2Proof/Machine/Update.lean ====
section
/-! DEFINITION. CONSUME (41_update.md). -/

namespace Sys2Proof.Machine

/-- CONSUME on an instance of configuration `cfg` (R120): the FIN check, then one mixing round. -/
def runConsume (cfg : Config) (b : Byte) (s : State) : Host.Outcome State Fault Refusal :=
  if s.fin then .next (raise .invalidState s) else .next (mixRound cfg (rowOfByte b) s)

/-- CONSUME (R120). -/
def execConsume (b : Byte) (s : State) : Host.Outcome State Fault Refusal :=
  runConsume Config.machine b s

end Sys2Proof.Machine
end

