-- ==== Sys2Proof/Machine/Dispatch.lean ====
section
/-! DEFINITION. One arm per command (30_encoding.md R81). -/

namespace Sys2Proof.Machine

/-- What a command does in the step that accepts it. -/
def exec (i : Instr) (s : State) : Host.Outcome State Fault Refusal :=
  match i with
  | .reset => Sys2Proof.Machine.execReset s
  | .consume b => Sys2Proof.Machine.execConsume b s
  | .digest => Sys2Proof.Machine.execDigest s

end Sys2Proof.Machine
end

