-- ==== Sys2Proof/Machine/Statement.lean ====
section
/-! DEFINITION. The statements of the spec's assembler (30_encoding.md R87 to R92), as syntax. -/

namespace Sys2Proof.Machine

/-- A register of the window (20_memory.md R60). CMD has no storage and cannot be read (10_state.md
R38), so it is none of these. -/
inductive Reg where
  | status
  | version
  | round
  | word (i : Fin 6)
  | dout (j : Fin 6)
  deriving DecidableEq, Repr

/-- A `<byte>` operand (R88): a number, written in decimal or in hexadecimal, or a character literal. -/
inductive ByteLit where
  | num (n : Nat)
  | chr (c : Char)
  deriving DecidableEq, Repr

/-- A statement or pseudo-instruction of R87 to R92. -/
inductive Stmt where
  | reset
  | consume (b : ByteLit)
  | digest
  /-- `WR CMD, <imm64>` -/
  | wr (imm : Nat)
  /-- `RD <reg>` -/
  | rd (r : Reg)
  /-- `RAW <kind> <off>, <width>[, <imm>]`; an absent immediate is 0 -/
  | raw (kind : AccessKind) (off width imm : Nat)
  | feed (bs : List ByteLit)
  | feedStr (text : List Char)
  | wait
  | readDigest
  | hash (bs : List ByteLit)
  | hashStr (text : List Char)
  deriving DecidableEq, Repr

end Sys2Proof.Machine
end

