-- ==== Sys2Proof/Machine/Window.lean ====
section
/-! DEFINITION. The register window (20_memory.md R60): offsets, values and the legality of an access
(R61, R62). -/

namespace Sys2Proof.Machine

/-- The offset of a register (R60). -/
def Reg.offset : Reg → Nat
  | .status => 0x08
  | .version => 0x10
  | .round => 0x18
  | .word i => 0x20 + 8 * i.val
  | .dout j => 0x50 + 8 * j.val

/-- Every readable register. -/
def Reg.all : List Reg :=
  [.status, .version, .round] ++ (List.finRange 6).map .word ++ (List.finRange 6).map .dout

/-- The readable register at an offset, if there is one (R60). -/
def registerAt? (off : Nat) : Option Reg := Reg.all.find? (fun r => r.offset == off)

/-- The VERSION register: PATCH in bits 7:0, MINOR in 15:8, MAJOR in 23:16 (10_state.md R34). -/
def versionWord (v : Version) : Word := BitVec.zeroExtend 64 (v.major ++ v.minor ++ v.patch)

/-- DOUTj: `OB[8j+7] ++ ... ++ OB[8j]` (10_state.md R37). -/
def doutWord (ob : Vector Byte 48) (j : Fin 6) : Word :=
  ob[8 * j.val + 7] ++ ob[8 * j.val + 6] ++ ob[8 * j.val + 5] ++ ob[8 * j.val + 4]
    ++ ob[8 * j.val + 3] ++ ob[8 * j.val + 2] ++ ob[8 * j.val + 1] ++ ob[8 * j.val]

/-- The value of a register (10_state.md R33 to R37). -/
def readRegister (cfg : Config) (r : Reg) (s : State) : Word :=
  match r with
  | .status => statusWord cfg s
  | .version => versionWord cfg.version
  | .round => BitVec.zeroExtend 64 s.rnd
  | .word i => s.words[i]
  | .dout j => doutWord s.ob j

/-- What a legal access does: read a register, or deliver a command word to CMD. -/
inductive Target where
  | register (r : Reg)
  | command (v : Word)
  deriving DecidableEq, Repr

/-- The accesses that 20_memory.md R62 calls illegal, as its pseudocode tests them, at any
offset (log 21). -/
def illegalAccess (t : HostAccess) : Bool :=
  decide (t.width ≠ 8) || decide (t.offset % 8 ≠ 0) || decide (t.offset ≥ 0x80)
    || (decide (t.kind = .read) && decide (t.offset = 0x00))
    || (decide (t.kind = .write) && decide (t.offset ≠ 0x00))

/-- What an access targets, if it is legal (R61, R62). -/
def target? (t : HostAccess) : Option Target :=
  if illegalAccess t then none
  else
    match t.kind with
    | .read => (registerAt? t.offset).map .register
    | .write => some (.command t.data)

/-- Whether an access is held while BUSY: all but the reads of STATUS and VERSION (R60,
70_reset_and_hazards.md R210). -/
def Target.heldWhileBusy : Target → Bool
  | .register .status => false
  | .register .version => false
  | .register .round => true
  | .register (.word _) => true
  | .register (.dout _) => true
  | .command _ => true

end Sys2Proof.Machine
end

