-- ==== Sys2Proof/Machine/Port.lean ====
section
/-! DEFINITION. The host port: what one transaction does, in the order of 60_exceptions.md R175. -/

namespace Sys2Proof.Machine

/-- The transaction completes with the response `r`. -/
def respond (r : Response) (s : State) : State := { s with resp := some r }

/-- The ok response of a read, with its data (20_memory.md R61). -/
def Response.readOk (v : Word) : Response := { ok := true, data := some v }

/-- The ok response of a write (R61, 60_exceptions.md R173). -/
def Response.writeOk : Response := { ok := true, data := none }

/-- The error response: a read returns data 0 (R62). -/
def Response.accessError : AccessKind → Response
  | .read => { ok := false, data := some 0 }
  | .write => { ok := false, data := none }

/-- An accepted command word (30_encoding.md R83, R84): an ILLEGAL word only raises
ERR_ILLEGAL_CMD. -/
def executeCommand (v : Word) (s : State) : Host.Outcome State Fault Refusal :=
  match decode v with
  | .instr i => exec i s
  | .illegal _ => .next (raise .illegalCmd s)

/-- A legal access that is not held (20_memory.md R62). -/
def complete (g : Target) (s : State) : Host.Outcome State Fault Refusal :=
  match g with
  | .register r => .next (respond (.readOk (readRegister Config.machine r s)) s)
  | .command v => executeCommand v (respond .writeOk s)

/-- `HostAccess` of 20_memory.md R62: legality, then the hold, then the access. A held transaction
becomes the one outstanding. -/
def present (t : HostAccess) (s : State) : Host.Outcome State Fault Refusal :=
  match target? t with
  | none => .next (raise .access (respond (.accessError t.kind) s))
  | some g =>
    if s.mode = .finalizing ∧ g.heldWhileBusy = true then .next { s with port := some t }
    else complete g s

end Sys2Proof.Machine
end

