-- ==== Sys2Proof/Machine/Schedule.lean ====
section
/-! DEFINITION. Which agent moves (00_scope.md R13, 60_exceptions.md R176), read from the list of host
events (log 1). -/

namespace Sys2Proof.Machine

/-- A step in which the host issues nothing new: the engine's round while FINALIZING (42_finalize.md
R132); else the transaction outstanding, whose hold has been lifted, exactly as if it had been issued now
(70_reset_and_hazards.md R210); else the block waits (60_exceptions.md R184, log 14). -/
def advance (s : State) : Host.Outcome State Fault Refusal :=
  match s.mode with
  | .finalizing => finRound Config.machine s
  | .idle =>
    match s.port with
    | some t => present t { s with port := none }
    | none => .next s

/-- One read of STATUS by WAIT (30_encoding.md R91): BUSY = 0 ends the loop; BUSY = 1 leaves the next
step to the engine before the next read (log 15). -/
def pollStatus (rest : List HostEvent) (s : State) : State :=
  respond (.readOk (statusWord Config.machine s))
    { s with host := if busy s then .poll true :: rest else rest }

/-- One step of the instance. The hardware reset comes before everything (60_exceptions.md R176). The
port has one transaction at a time (20_memory.md R65): while one is outstanding, the host's next one
waits in the list (log 13). -/
def stepInstance (s : State) : Host.Outcome State Fault Refusal :=
  match s.host with
  | [] => advance s
  | .reset :: rest => .next (hardwareReset Config.machine { s with host := rest })
  | .quiet :: rest => advance { s with host := rest }
  | .issue t :: rest =>
    match s.port with
    | some _ => advance s
    | none => present t { s with host := rest }
  | .poll sent :: rest =>
    match s.port with
    | some _ => advance s
    | none =>
      if sent then advance { s with host := .poll false :: rest }
      else .next (pollStatus rest s)

end Sys2Proof.Machine
end

