-- ==== Sys2Proof/Machine/Step.lean ====
section
/-! DEFINITION. The step of the machine, and how a command word is brought to it. -/

namespace Sys2Proof.Machine

/-- One step (00_scope.md R13). -/
def step (s : State) : Host.Outcome State Fault Refusal := stepInstance s

/-- The block fetches no instructions (10_state.md R31, 20_memory.md R68): a command arrives as a CMD
write, which the host issues next. The port is empty, as the host needs it to issue one (log 2). -/
def State.withFetchWord (s : State) (nbits w : Nat) : State :=
  { s with
    port := none,
    host := .issue (HostAccess.cmdWrite (BitVec.ofNat 64 (w % 2 ^ nbits))) :: s.host }

end Sys2Proof.Machine
end

