-- ==== Sys2Proof/WellFormed.lean ====
section
/-! DEFINITION. The checks on syntax: on a command, on an assembler statement (30_encoding.md R87, R88)
and on a table set before it becomes a configuration (00_scope.md R7). -/

namespace Sys2Proof

/-- Every command is well-formed: its one operand is a byte, and each byte is legal (R82). The match
names every constructor, so that a new one cannot pass unseen. -/
def Instr.wellFormed : Instr → Bool
  | .reset => true
  | .consume _ => true
  | .digest => true

namespace Machine

/-- A `<byte>` is 0..255, or a printable ASCII character, 0x20..0x7E (R88). -/
def ByteLit.wellFormed : ByteLit → Bool
  | .num n => decide (n ≤ 255)
  | .chr c => decide (0x20 ≤ c.toNat ∧ c.toNat ≤ 0x7E)

/-- A statement is well-formed when its operands are in range: bytes by R88, a CMD immediate of 64 bits.
RAW takes any width and any offset (R87); its immediate is one of 64 bits where the access is 8 bytes
wide, and is without effect where it is not (20_memory.md R62, log 16). -/
def Stmt.wellFormed : Stmt → Bool
  | .reset => true
  | .consume b => b.wellFormed
  | .digest => true
  | .wr imm => decide (imm < 2 ^ 64)
  | .rd _ => true
  | .raw _ _ width imm => decide (width ≠ 8) || decide (imm < 2 ^ 64)
  | .feed bs => bs.all ByteLit.wellFormed
  | .feedStr _ => true
  | .wait => true
  | .readDigest => true
  | .hash bs => bs.all ByteLit.wellFormed
  | .hashStr _ => true

end Machine

/-- `INIT_VECTOR` has exactly 6 entries (R7). -/
def RawConfig.initVectorOk (r : RawConfig) : Bool :=
  r.initVector.length == 6

/-- A row table has exactly 257 rows of exactly 6 entries (R7). -/
def RawConfig.rowsOk (rows : List (List Word)) : Bool :=
  rows.length == 257 && rows.all (fun row => row.length == 6)

/-- `PERM_ROWS` has exactly 256 rows of exactly 6 entries, each in [0, 5]; a row need not be a
bijection (R7, 90 C3). -/
def RawConfig.permRowsOk (r : RawConfig) : Bool :=
  r.permRows.length == 256 &&
    r.permRows.all (fun row => row.length == 6 && row.all (fun e => decide (e.toNat ≤ 5)))

/-- `FINAL_SELECTOR` has exactly 48 entries, each in [0, 47] (R7). -/
def RawConfig.selectorOk (r : RawConfig) : Bool :=
  r.finalSelector.length == 48 && r.finalSelector.all (fun e => decide (e.toNat ≤ 47))

/-- `MIX_K` is odd (R7). -/
def RawConfig.mixKOk (r : RawConfig) : Bool :=
  r.mixK.getLsbD 0

/-- All checks of 00_scope.md R7 together. -/
def RawConfig.wellFormed (r : RawConfig) : Bool :=
  r.initVectorOk && rowsOk r.xorRows && rowsOk r.addRows && r.permRowsOk && r.selectorOk && r.mixKOk

end Sys2Proof
end

