-- ==== Sys2Proof/Machine/Assembler.lean ====
section
/-! DEFINITION. The assembler of 30_encoding.md R87 to R92: what each statement makes the host do, and
the reading of a line of text (log 16). -/

namespace Sys2Proof.Machine

/-- The byte of a `<byte>` operand: a number, or the ASCII code of a character (R88, 93 I12). -/
def ByteLit.value : ByteLit → Byte
  | .num n => BitVec.ofNat 8 n
  | .chr c => BitVec.ofNat 8 c.toNat

/-- The UTF-8 bytes of a character (R90, 93 I12, log 18). -/
def utf8Bytes (c : Char) : List Byte :=
  let n := c.toNat
  if n < 0x80 then [BitVec.ofNat 8 n]
  else if n < 0x800 then [BitVec.ofNat 8 (0xC0 + n / 0x40), BitVec.ofNat 8 (0x80 + n % 0x40)]
  else if n < 0x10000 then
    [BitVec.ofNat 8 (0xE0 + n / 0x1000), BitVec.ofNat 8 (0x80 + n / 0x40 % 0x40),
      BitVec.ofNat 8 (0x80 + n % 0x40)]
  else
    [BitVec.ofNat 8 (0xF0 + n / 0x40000), BitVec.ofNat 8 (0x80 + n / 0x1000 % 0x40),
      BitVec.ofNat 8 (0x80 + n / 0x40 % 0x40), BitVec.ofNat 8 (0x80 + n % 0x40)]

/-- The bytes of a text under the default encoding (R90). -/
def textBytes (text : List Char) : List Byte := text.flatMap utf8Bytes

/-- The host writes a command to CMD. -/
def issueCommand (i : Instr) : HostEvent := .issue (HostAccess.cmdWrite (encode i))

/-- The host reads a register. -/
def issueRead (r : Reg) : HostEvent := .issue (HostAccess.readAt r.offset)

/-- FEED: one CONSUME for each byte, in order (R89, 41_update.md R123). -/
def feedEvents (bs : List Byte) : List HostEvent := bs.map fun b => issueCommand (.consume b)

/-- READDIGEST: DOUT0 to DOUT5 in order (R91). -/
def readDigestEvents : List HostEvent := (List.finRange 6).map fun j => issueRead (.dout j)

/-- HASH: RESET, FEED, DIGEST, READDIGEST (R92). -/
def hashEvents (bs : List Byte) : List HostEvent :=
  issueCommand .reset :: feedEvents bs ++ issueCommand .digest :: readDigestEvents

/-- What a statement makes the host do (R87, R89 to R92). DESIGN CHOICE (log 22): R87 does not say how the
accesses of a program fall among the engine's steps, and 93 I14 admits every schedule; the events here are
one of them, with no silent step between two accesses, so that the engine moves only while an access is
held, while WAIT polls, and after the last event. Every other schedule without a
hardware reset is this list with `HostEvent.quiet` put between its events (for the reads of a WAIT: log 15). -/
def Stmt.expand : Stmt → List HostEvent
  | .reset => [issueCommand .reset]
  | .consume b => [issueCommand (.consume b.value)]
  | .digest => [issueCommand .digest]
  | .wr imm => [.issue (HostAccess.cmdWrite (BitVec.ofNat 64 imm))]
  | .rd r => [issueRead r]
  | .raw kind off width imm =>
    [.issue { kind := kind, offset := off, width := width, data := BitVec.ofNat 64 imm }]
  | .feed bs => feedEvents (bs.map ByteLit.value)
  | .feedStr text => feedEvents (textBytes text)
  | .wait => [.poll false]
  | .readDigest => readDigestEvents
  | .hash bs => hashEvents (bs.map ByteLit.value)
  | .hashStr text => hashEvents (textBytes text)

/-- A program of statements, refused as a whole when one of them is ill-formed: an assembly error never
reaches the block (R88). That the rest of the program issues nothing either is log 16, DESIGN CHOICE. -/
def assemble (p : List Stmt) : Option (List HostEvent) :=
  if p.all Stmt.wellFormed then some (p.flatMap Stmt.expand) else none

/-- A blank between the words of a line. -/
def isBlank (c : Char) : Bool := c == ' ' || c == '\t'

/-- A text without the blanks at its two ends. -/
def trimBlanks (cs : List Char) : List Char :=
  ((cs.dropWhile isBlank).reverse.dropWhile isBlank).reverse

/-- A line without its comment, which starts at `;` (R87) outside a character literal and outside a
text in double quotes. -/
def stripComment (inText : Bool) : List Char → List Char
  | [] => []
  | '\'' :: c :: '\'' :: cs =>
    if inText then '\'' :: stripComment inText (c :: '\'' :: cs)
    else '\'' :: c :: '\'' :: stripComment inText cs
  | '"' :: cs => '"' :: stripComment (!inText) cs
  | ';' :: cs => if inText then ';' :: stripComment inText cs else []
  | c :: cs => c :: stripComment inText cs

/-- The operands of a statement, separated by commas outside a character literal; `acc` is the operand
read so far, reversed. -/
def splitOperands (acc : List Char) : List Char → List (List Char)
  | [] => [acc.reverse]
  | '\'' :: c :: '\'' :: cs => splitOperands ('\'' :: c :: '\'' :: acc) cs
  | ',' :: cs => acc.reverse :: splitOperands [] cs
  | c :: cs => splitOperands (c :: acc) cs

/-- The operands of a statement without their blanks; an empty text has none. -/
def operandsOf (cs : List Char) : List (List Char) :=
  if trimBlanks cs = [] then [] else (splitOperands [] cs).map trimBlanks

/-- A digit of a number in the given base. -/
def digitOf (base : Nat) (c : Char) : Option Nat :=
  let d :=
    if '0' ≤ c ∧ c ≤ '9' then some (c.toNat - '0'.toNat)
    else if 'a' ≤ c ∧ c ≤ 'f' then some (c.toNat - 'a'.toNat + 10)
    else if 'A' ≤ c ∧ c ≤ 'F' then some (c.toNat - 'A'.toNat + 10)
    else none
  d.filter (· < base)

/-- The digits of a number, the most significant first. -/
def digitsValue (base acc : Nat) : List Char → Option Nat
  | [] => some acc
  | c :: cs => (digitOf base c).bind fun d => digitsValue base (acc * base + d) cs

/-- A number: decimal, or hexadecimal as `0x...` (R88). DESIGN CHOICE (log 16): R88 shows a hexadecimal
byte as `0xNN` and does not say whether fewer or more digits may stand there; here a number of either base
has any number of digits, at least one, and its value alone is checked (0x5 and 0x00061 are bytes). -/
def numberOf : List Char → Option Nat
  | [] => none
  | '0' :: 'x' :: c :: cs => digitsValue 16 0 (c :: cs)
  | c :: cs => digitsValue 10 0 (c :: cs)

/-- A `<byte>` (R88): a character literal or a number. -/
def byteLitOf : List Char → Option ByteLit
  | ['\'', c, '\''] => some (.chr c)
  | cs => (numberOf cs).map .num

/-- A text in double quotes (R90, R92). DESIGN CHOICE (log 16): R90 does not say how a double quote inside
the text is written; here the text is everything between the first and the last double quote of the
operand, so a double quote between those two is part of it (`"a" "b"` is one text). -/
def quotedOf : List Char → Option (List Char)
  | '"' :: cs => if cs.getLast? = some '"' then some cs.dropLast else none
  | _ => none

/-- The name of a readable register (R87). -/
def Reg.name : Reg → List Char
  | .status => "STATUS".toList
  | .version => "VERSION".toList
  | .round => "ROUND".toList
  | .word i => "WORD".toList ++ [Char.ofNat ('0'.toNat + i.val)]
  | .dout j => "DOUT".toList ++ [Char.ofNat ('0'.toNat + j.val)]

/-- The register of a name. -/
def registerOf (cs : List Char) : Option Reg := Reg.all.find? (fun r => r.name == cs)

/-- The direction that a RAW statement names. -/
def kindOf (cs : List Char) : Option AccessKind :=
  if cs = "read".toList then some .read
  else if cs = "write".toList then some .write
  else none

/-- A RAW statement from its kind and its operands (R87). -/
def rawOf (rest : List Char) : Option Stmt := do
  let kind ← kindOf (rest.takeWhile fun c => !isBlank c)
  match operandsOf (rest.dropWhile fun c => !isBlank c) with
  | [off, width] => some (.raw kind (← numberOf off) (← numberOf width) 0)
  | [off, width, imm] => some (.raw kind (← numberOf off) (← numberOf width) (← numberOf imm))
  | _ => none

/-- A statement from its mnemonic and the text behind it (R87, R89 to R92). -/
def stmtOf (mnemonic rest : List Char) : Option Stmt :=
  let ops := operandsOf rest
  if mnemonic = "RESET".toList then if ops = [] then some .reset else none
  else if mnemonic = "DIGEST".toList then if ops = [] then some .digest else none
  else if mnemonic = "WAIT".toList then if ops = [] then some .wait else none
  else if mnemonic = "READDIGEST".toList then if ops = [] then some .readDigest else none
  else if mnemonic = "CONSUME".toList then
    match ops with
    | [b] => (byteLitOf b).map .consume
    | _ => none
  else if mnemonic = "WR".toList then
    match ops with
    | [reg, imm] => if reg = "CMD".toList then (numberOf imm).map .wr else none
    | _ => none
  else if mnemonic = "RD".toList then
    match ops with
    | [reg] => (registerOf reg).map .rd
    | _ => none
  else if mnemonic = "RAW".toList then rawOf rest
  else if mnemonic = "FEED".toList then (ops.mapM byteLitOf).map .feed
  else if mnemonic = "FEEDSTR".toList then (quotedOf rest).map .feedStr
  else if mnemonic = "HASH".toList then (ops.mapM byteLitOf).map .hash
  else if mnemonic = "HASHSTR".toList then (quotedOf rest).map .hashStr
  else none

/-- One line (R87): one statement, or none on a blank line; the outer `none` is a line that holds no
statement of R87 to R92. -/
def parseLine (line : List Char) : Option (Option Stmt) :=
  let cs := trimBlanks (stripComment false line)
  if cs = [] then some none
  else (stmtOf (cs.takeWhile fun c => !isBlank c) (trimBlanks (cs.dropWhile fun c => !isBlank c))).map some

/-- A program of lines as the events of the host, if every line is well-formed. -/
def assembleText (lines : List (List Char)) : Option (List HostEvent) :=
  (lines.mapM parseLine).bind fun ss => assemble (ss.filterMap id)

end Sys2Proof.Machine
end

