-- ==== Sys2Proof/Machine/Boot.lean ====
section
/-! DEFINITION. From a loaded table set to an instance (00_scope.md R7, 60_exceptions.md R174,
70_reset_and_hazards.md R202). -/

namespace Sys2Proof.Machine

/-- Entry `i` of a row of words; a checked table set has it (R7). -/
def wordAt (row : List Word) (i : Nat) : Word := row.getD i 0

/-- Entry `i` of a row of a row table (20_memory.md R52, R53). -/
def rowEntry (rows : List (List Word)) (n i : Nat) : Word := wordAt (rows.getD n []) i

/-- Entry `i` of row `r` of PERM_ROWS as stored, 3 bits (20_memory.md R54). -/
def permEntry (rows : List (List (BitVec 3))) (r i : Nat) : BitVec 3 := (rows.getD r []).getD i 0

/-- Entry `i` of FINAL_SELECTOR as stored, 6 bits (20_memory.md R55). -/
def selectorEntry (sel : List (BitVec 6)) (i : Nat) : BitVec 6 := sel.getD i 0

/-- The configuration that a checked table set defines. -/
def tablesOf (r : RawConfig) : Tables where
  initVector i := wordAt r.initVector i.val
  xorRows n i := rowEntry r.xorRows n.val i.val
  addRows n i := rowEntry r.addRows n.val i.val
  permRows n i := Fin.ofNat 6 (permEntry r.permRows n.val i.val).toNat
  finalSelector i := Fin.ofNat 48 (selectorEntry r.finalSelector i.val).toNat

/-- The check of R7: a table set that passes defines a configuration, any other defines none. -/
def loadConfig (r : RawConfig) : Option Config :=
  if h : r.wellFormed = true then
    some
      { tables := tablesOf r
        mixK := r.mixK
        mixK_odd := by
          simp only [RawConfig.wellFormed, Bool.and_eq_true] at h
          exact h.2
        version := r.version
        lockOnDigest := r.lockOnDigest }
  else none

/-- Boot: the check, then the hardware reset (R202). A set that fails is refused, fatal at startup
(R174, 93 I8). -/
def boot (r : RawConfig) : Host.Outcome State Fault Refusal :=
  match loadConfig r with
  | some cfg => .next (State.resetOf cfg)
  | none => .refused .constantsCorrupt

end Sys2Proof.Machine
end

