-- ==== Sys2Proof/Machine/Platform.lean ====
section
/-! DEFINITION. A platform of several instances (20_memory.md R70, 60_exceptions.md R181). All of them
have the one configuration of the machine (log 10). -/

namespace Sys2Proof.Machine

/-- The instances, numbered from 0. They share no mutable state (R70). -/
structure Platform where
  instances : List State
  deriving DecidableEq, Repr

/-- Every instance after its own hardware reset (R181). -/
def Platform.reset : Platform := { instances := List.replicate Config.nInstances State.reset }

/-- Whether a platform address lies in the window of instance `k` (20_memory.md R60). -/
def inWindow (k addr : Nat) : Bool := decide (Config.base k ≤ addr) && decide (addr < Config.base k + 0x100)

/-- The instance that an address reaches: an instance is identified by its BASE (R181). -/
def instanceAt? (addr : Nat) : Option Nat := (List.range Config.nInstances).find? (fun k => inWindow k addr)

/-- The access as the window of instance `k` sees it, its offset relative to BASE (R60). -/
def windowAccess (k addr : Nat) (kind : AccessKind) (width : Nat) (data : Word) : HostAccess :=
  { kind := kind, offset := addr - Config.base k, width := width, data := data }

/-- A host issues an access at a platform address: it joins the events of the one instance whose window
holds the address. An address outside every window is no access to the block. -/
def Platform.access (addr : Nat) (kind : AccessKind) (width : Nat) (data : Word) (p : Platform) : Platform :=
  match instanceAt? addr with
  | none => p
  | some k =>
    { instances := p.instances.modify k fun s =>
        { s with host := s.host ++ [.issue (windowAccess k addr kind width data)] } }

/-- One step of instance `k`. -/
def Platform.stepAt (k : Nat) (p : Platform) : Host.Outcome Platform Fault Refusal :=
  match p.instances[k]? with
  | none => .next p
  | some s =>
    match step s with
    | .next t => .next { instances := p.instances.set k t }
    | .fault r => .fault r
    | .refused r => .refused r

end Sys2Proof.Machine
end

