-- ==== Sys2Proof/Machine/Reference.lean ====
section
/-! DEFINITION. The source's own operations on a Digest State, as loops and folds: what the sequenced
hardware is compared with (41_update.md R124, R125; 42_finalize.md R134; 43_control.md R154). -/

namespace Sys2Proof.Machine

/-- The source's `digest` in the middle of its loop (42_finalize.md R133, the source's text): the digest
state, the row of the next round, and the bytes emitted so far. -/
structure DigestLoop where
  words    : Vector Word 6
  round    : BitVec 8
  feedback : Fin 257
  output   : List Byte
  deriving DecidableEq, Repr

/-- The loop before its first iteration: the feedback is the sentinel row 256. -/
def DigestLoop.start (w : Vector Word 6) (n : BitVec 8) : DigestLoop where
  words := w
  round := n
  feedback := ⟨256, by decide⟩
  output := []

/-- Iteration `i` of the source's loop. -/
def DigestLoop.iterate (cfg : Config) (l : DigestLoop) (i : Fin 48) : DigestLoop :=
  let w := transition cfg.mixK l.words (cfg.tables.xorRows l.feedback) (cfg.tables.addRows l.feedback)
    (cfg.tables.permRows (permIndex l.round))
  let b := extractByte w (cfg.tables.finalSelector i)
  { words := w, round := l.round + 1, feedback := rowOfByte b, output := l.output ++ [b] }

/-- The source's `digest(state)`, all 48 iterations at once, from the words `w` and the round `n`. -/
def sourceDigest (cfg : Config) (w : Vector Word 6) (n : BitVec 8) : DigestLoop :=
  (List.finRange 48).foldl (DigestLoop.iterate cfg) (DigestLoop.start w n)

/-- The digest state, words and round, after `consumeByte` (41_update.md R120). -/
def sourceConsume (cfg : Config) (d : Vector Word 6 × BitVec 8) (b : Byte) : Vector Word 6 × BitVec 8 :=
  (roundWords cfg (rowOfByte b) d.2 d.1, d.2 + 1)

/-- The digest state after the bytes of a message, from the state `d` (R125). -/
def sourceUpdate (cfg : Config) (d : Vector Word 6 × BitVec 8) (bs : List Byte) :
    Vector Word 6 × BitVec 8 :=
  bs.foldl (sourceConsume cfg) d

/-- The source's `compute(source)`: a fresh state, the whole message, the finalization (30_encoding.md
R92). -/
def sourceCompute (cfg : Config) (bs : List Byte) : DigestLoop :=
  let d := sourceUpdate cfg (Vector.ofFn cfg.tables.initVector, 0) bs
  sourceDigest cfg d.1 d.2

/-- Commands executed one after another, each in the step that accepts it. -/
def execAll : List Instr → State → Host.Outcome State Fault Refusal
  | [], s => .next s
  | i :: is, s =>
    match exec i s with
    | .next t => execAll is t
    | .fault r => .fault r
    | .refused r => .refused r

/-- `k` finalization rounds, one after another (42_finalize.md R133). -/
def finRounds (cfg : Config) : Nat → State → Host.Outcome State Fault Refusal
  | 0, s => .next s
  | k + 1, s =>
    match finRound cfg s with
    | .next t => finRounds cfg k t
    | .fault r => .fault r
    | .refused r => .refused r

end Sys2Proof.Machine
end

