-- ==== Sys2Proof/Safety.lean ====
section
/-! DEFINITION. The terms that claims use: the invariants of 10_state.md R25 to R27, what the host can
see while a DIGEST runs, and runs without a hardware reset. -/

namespace Sys2Proof.Safety

open Sys2Proof.Machine

/-- The sequencer registers (10_state.md R25 to R27): idle values in IDLE; in FINALIZING an index in
range, the sentinel exactly in the first round, and no valid digest. -/
abbrev SequencerOk (s : State) : Prop :=
  (s.mode = .idle → s.fidx = 0 ∧ s.fb = 256) ∧
  (s.mode = .finalizing →
    s.fidx.toNat ≤ 47 ∧ s.fb.toNat ≤ 256 ∧ (s.fb = 256 ↔ s.fidx = 0) ∧ s.dvalid = false)

/-- The completion flag (10_state.md R27). -/
abbrev FinishedOk (s : State) : Prop :=
  s.fin = true → Config.machine.lockOnDigest = true ∧ s.mode = .idle ∧ s.dvalid = true

/-- The error codes 4..15 are never produced (60_exceptions.md R170). -/
abbrev ErrorOk (s : State) : Prop := s.err.toNat ≤ 3

/-- Whether an access is one that the hold rule can hold (70_reset_and_hazards.md R210). -/
def holdable (t : HostAccess) : Bool :=
  match target? t with
  | some g => g.heldWhileBusy
  | none => false

/-- Only an access that can be held is ever outstanding between two steps (R210). -/
abbrev PortOk (s : State) : Prop := s.port.all holdable = true

/-- The invariant of the machine. -/
abbrev MachineInv (s : State) : Prop := SequencerOk s ∧ FinishedOk s ∧ ErrorOk s ∧ PortOk s

/-- An illegal command word, by its fields as numbers (30_encoding.md R84, 60_exceptions.md R171). -/
abbrev IllegalCommandWord (v : Word) : Prop :=
  v.toNat / 0x10000 ≠ 0 ∨
  (v.toNat / 0x100 % 0x100 ≠ 1 ∧ v.toNat / 0x100 % 0x100 ≠ 2 ∧ v.toNat / 0x100 % 0x100 ≠ 3) ∨
  ((v.toNat / 0x100 % 0x100 = 1 ∨ v.toNat / 0x100 % 0x100 = 3) ∧ v.toNat % 0x100 ≠ 0)

/-- An illegal access (20_memory.md R62). -/
abbrev IllegalHostAccess (t : HostAccess) : Prop :=
  t.width ≠ 8 ∨ t.offset % 8 ≠ 0 ∨ 0x80 ≤ t.offset ∨
  (t.kind = .read ∧ t.offset = 0x00) ∨ (t.kind = .write ∧ t.offset ≠ 0x00)

/-- A legal access in this state is held (20_memory.md R62). -/
abbrev MustWait (s : State) (t : HostAccess) : Prop :=
  s.mode = .finalizing ∧ t.offset ≠ 0x08 ∧ t.offset ≠ 0x10

/-- A `<byte>` that is out of range: a number over 255, or a character that is not printable ASCII
(30_encoding.md R88). -/
def ByteOutOfRange : ByteLit → Prop
  | .num n => 255 < n
  | .chr c => c.toNat < 0x20 ∨ 0x7E < c.toNat

/-- A statement that is an assembly error: one of its bytes is out of range (30_encoding.md R88), or its
immediate has no place in the 64 bits it is written with (log 16). -/
def AssemblyError : Stmt → Prop
  | .consume b => ByteOutOfRange b
  | .feed bs => ∃ b ∈ bs, ByteOutOfRange b
  | .hash bs => ∃ b ∈ bs, ByteOutOfRange b
  | .wr imm => 2 ^ 64 ≤ imm
  | .raw _ _ width imm => width = 8 ∧ 2 ^ 64 ≤ imm
  | .reset => False
  | .digest => False
  | .rd _ => False
  | .feedStr _ => False
  | .wait => False
  | .readDigest => False
  | .hashStr _ => False

/-- The window of instance `k` holds a platform address (20_memory.md R60, 60_exceptions.md R181). -/
abbrev WindowHolds (k addr : Nat) : Prop := Config.base k ≤ addr ∧ addr < Config.base k + 0x100

/-- The error field after an error is raised: the first code since reset is kept (60_exceptions.md
R172). -/
def errAfter (code old : BitVec 4) : BitVec 4 := if old = 0 then code else old

/-- The words after a round, lane by lane (40_mixing.md R103, R105). -/
def lanesOf (cfg : Config) (n : Fin 257) (rnd : BitVec 8) (w : Vector Word 6) (i : Fin 6) : Word :=
  mix64 cfg.mixK (w[i] + cfg.tables.addRows n i) w[cfg.tables.permRows (permIndex rnd) i]
    ^^^ cfg.tables.xorRows n i

/-- The state right after an accepted DIGEST, before its first round (42_finalize.md R130). -/
abbrev AtFirstRound (s : State) : Prop :=
  s.mode = .finalizing ∧ s.fidx = 0 ∧ s.fb = 256 ∧ s.dvalid = false

/-- No hardware reset is to come. -/
def noReset (l : List HostEvent) : Bool := l.all (fun e => decide (e ≠ .reset))

/-- Two states that differ at most in what the sequence is computing: the words, the round counter, the
feedback and the output buffer (20_memory.md R64). -/
structure SameButDigest (s t : State) : Prop where
  fin    : s.fin = t.fin
  mode   : s.mode = t.mode
  fidx   : s.fidx = t.fidx
  dvalid : s.dvalid = t.dvalid
  err    : s.err = t.err
  port   : s.port = t.port
  host   : s.host = t.host
  resp   : s.resp = t.resp
  draws  : s.draws = t.draws

/-- The transaction that a step from `s` accepts while IDLE: the one outstanding, whose hold has been
lifted, else the one the host issues now (60_exceptions.md R175, 70_reset_and_hazards.md R210). -/
def acceptedAccess (s : State) : Option HostAccess :=
  match s.mode, s.host, s.port with
  | .finalizing, _, _ => none
  | .idle, .reset :: _, _ => none
  | .idle, _, some t => some t
  | .idle, .issue t :: _, none => some t
  | .idle, _, none => none

/-- The command that a step from `s` executes, if it executes one (60_exceptions.md R175). -/
def acceptedCommand (s : State) : Option Instr :=
  match acceptedAccess s with
  | none => none
  | some t =>
    match target? t with
    | some (.command v) =>
      match decode v with
      | .instr i => some i
      | .illegal _ => none
    | some (.register _) => none
    | none => none

/-- A step from `s` is the hardware reset. -/
def resets (s : State) : Bool :=
  match s.host with
  | .reset :: _ => true
  | _ => false

/-- A step from `s` is a round of the engine (42_finalize.md R132). -/
def engineMoves (s : State) : Bool :=
  match s.mode, s.host, s.port with
  | .idle, _, _ => false
  | .finalizing, .reset :: _, _ => false
  | .finalizing, .issue _ :: _, none => false
  | .finalizing, .poll false :: _, none => false
  | .finalizing, _, _ => true

/-- A step from `s` writes the reset values: the hardware reset, or an accepted RESET. -/
abbrev writesResetValues (s : State) : Prop :=
  resets s = true ∨ acceptedCommand s = some .reset

/-- The reset values of 10_state.md R39. -/
structure HasResetValues (cfg : Config) (s : State) : Prop where
  words  : ∀ i : Fin 6, s.words[i] = cfg.tables.initVector i
  rnd    : s.rnd = 0
  fin    : s.fin = false
  mode   : s.mode = .idle
  fidx   : s.fidx = 0
  fb     : s.fb = 256
  ob     : ∀ j : Fin 48, s.ob[j] = 0x00
  dvalid : s.dvalid = false
  err    : s.err = 0

end Sys2Proof.Safety
end

