-- ==== Sys2Proof/Certificates/Slice0/Obligations.lean ====
section
/-! DEFINITION. The statements for the provers. Each docstring names the rule or the section it
formalises.

The fields `host`, `resp` and `draws` are the model's own (logs 1, 3, 4): where a statement gives a whole
next state, they say that the host's event is taken and what response it gets. The invariant of the
statements is `MachineInv` of Safety.lean. -/

open Sys2Proof Sys2Proof.Machine Sys2Proof.Safety

/-! ## Encoding -/

/-- 30_encoding.md §1, 95_test_vectors.md §2.6 X1 to X8: some words, written out. -/
def Obligations.SpecWordsDecodeAsListed : Prop :=
  decode 0x0000000000000100 = .instr .reset ∧
  decode 0x0000000000000261 = .instr (.consume 0x61) ∧
  decode 0x00000000000002FF = .instr (.consume 0xFF) ∧
  decode 0x0000000000000300 = .instr .digest ∧
  decode 0x0000000000000000 = .illegal .unknownOpcode ∧
  decode 0x0000000000000400 = .illegal .unknownOpcode ∧
  decode 0x0000000000010261 = .illegal .reservedBits ∧
  decode 0x0000000000000101 = .illegal .operandNotZero ∧
  decode 0x0000000000000301 = .illegal .operandNotZero

/-- 30_encoding.md R83: every word decodes to exactly one of the three commands or ILLEGAL, by its
fields. -/
def Obligations.DecodeClassifiesEveryWord : Prop :=
  ∀ v : Word,
    (decode v = .instr .reset ↔
      v.toNat / 0x10000 = 0 ∧ v.toNat / 0x100 % 0x100 = 1 ∧ v.toNat % 0x100 = 0) ∧
    (∀ b : Byte, decode v = .instr (.consume b) ↔
      v.toNat / 0x10000 = 0 ∧ v.toNat / 0x100 % 0x100 = 2 ∧ v.toNat % 0x100 = b.toNat) ∧
    (decode v = .instr .digest ↔
      v.toNat / 0x10000 = 0 ∧ v.toNat / 0x100 % 0x100 = 3 ∧ v.toNat % 0x100 = 0) ∧
    ((∃ why, decode v = .illegal why) ↔ IllegalCommandWord v)

/-- 30_encoding.md R86: the legal words as values, and as match and mask pairs. -/
def Obligations.LegalWordsMatchTheirMasks : Prop :=
  encode .reset = 0x0000000000000100 ∧
  (∀ b : Byte, encode (.consume b) = 0x0000000000000200 ||| b.zeroExtend 64) ∧
  encode .digest = 0x0000000000000300 ∧
  ∀ v : Word,
    (v &&& 0xFFFFFFFFFFFFFFFF = 0x0000000000000100 ↔ decode v = .instr .reset) ∧
    (v &&& 0xFFFFFFFFFFFFFF00 = 0x0000000000000200 ↔ ∃ b, decode v = .instr (.consume b)) ∧
    (v &&& 0xFFFFFFFFFFFFFFFF = 0x0000000000000300 ↔ decode v = .instr .digest)

/-- 30_encoding.md §1: decoder and encoder agree, in both directions: an encoded command decodes to
itself, and no other word decodes to it. -/
def Obligations.DecodeAndEncodeAgree : Prop :=
  ∀ (i : Instr) (v : Word), i.wellFormed = true → (decode v = .instr i ↔ v = encode i)

/-! ## The step and the commands -/

/-- 00_scope.md R13, 60_exceptions.md R175: an accepted CMD write whose word decodes to a command is that
command's `exec` on the state in which the transaction has its ok response; a newly issued write and
one whose hold has been lifted alike. -/
def Obligations.StepRunsTheDecodedCommand : Prop :=
  (∀ (s : State) (v : Word) (i : Instr) (rest : List HostEvent),
    s.mode = .idle → s.port = none → s.host = .issue (HostAccess.cmdWrite v) :: rest →
    decode v = .instr i → i.wellFormed = true →
    step s = exec i { s with host := rest, resp := some { ok := true, data := none } }) ∧
  (∀ (s : State) (v : Word) (i : Instr),
    s.mode = .idle → s.port = some (HostAccess.cmdWrite v) → s.host = [] →
    decode v = .instr i → i.wellFormed = true →
    step s = exec i { s with port := none, resp := some { ok := true, data := none } })

/-- 30_encoding.md R84: an illegal word gets an ok response and raises ERR_ILLEGAL_CMD; nothing else
changes. While FINALIZING it is held, not decoded. -/
def Obligations.IllegalWordOnlyRaises : Prop :=
  ∀ (s : State) (v : Word) (rest : List HostEvent),
    s.port = none → s.host = .issue (HostAccess.cmdWrite v) :: rest → IllegalCommandWord v →
    (s.mode = .idle →
      step s = .next { s with host := rest, resp := some { ok := true, data := none },
                              err := errAfter 1 s.err }) ∧
    (s.mode = .finalizing →
      step s = .next { s with host := rest, port := some (HostAccess.cmdWrite v) })

/-- 43_control.md §R150: RESET answers a next state from every state, finished and in error too: the
reset values of 10_state.md R39, and everything else as before. From the reset state it changes
nothing. -/
def Obligations.ResetCommandCompletes : Prop :=
  (∀ s : State,
    exec .reset s = .next { s with
      words := Vector.ofFn Config.machine.tables.initVector, rnd := 0, fin := false, fidx := 0,
      fb := 256, ob := Vector.replicate 48 0x00, dvalid := false, err := 0 }) ∧
  exec .reset State.reset = .next State.reset

/-- 41_update.md §R120: on an instance that is not finished, CONSUME answers a next state: one mixing
round of the byte's row and the round's permutation row; nothing else changes. -/
def Obligations.ConsumeCompletes : Prop :=
  ∀ (b : Byte) (s : State), s.fin = false →
    exec (.consume b) s = .next { s with
      words := Vector.ofFn (lanesOf Config.machine ⟨b.toNat, by have := b.isLt; omega⟩ s.rnd s.words),
      rnd := s.rnd + 1 }

/-- 42_finalize.md §R130: on an instance that is not finished, DIGEST answers a next state: the sequencer
at its first round with the sentinel row; words, round, buffer and error are as before. -/
def Obligations.DigestCompletes : Prop :=
  ∀ s : State, s.fin = false →
    exec .digest s = .next { s with mode := .finalizing, fidx := 0, fb := 256, dvalid := false }

/-- 60_exceptions.md R171, R172: on a finished instance CONSUME and DIGEST only record
ERR_INVALID_STATE, and only when no error was recorded before. -/
def Obligations.FinishedInstanceRejectsConsumeAndDigest : Prop :=
  ∀ s : State, s.fin = true →
    (∀ b : Byte, exec (.consume b) s = .next { s with err := errAfter 2 s.err }) ∧
    exec .digest s = .next { s with err := errAfter 2 s.err }

/-! ## The mixing engine -/

/-- 40_mixing.md R100, R101: `mix64` as arithmetic on natural numbers: products modulo 2^64, the right
shift by 47 a division, no step signed; and the example of R100. -/
def Obligations.Mix64IsTheModularFormula : Prop :=
  (∀ k u v : Word,
    let a := ((v.toNat ^^^ u.toNat) * k.toNat) % 2 ^ 64
    let b := a ^^^ (a / 2 ^ 47)
    let c := ((b ^^^ u.toNat) * k.toNat) % 2 ^ 64
    let d := c ^^^ (c / 2 ^ 47)
    (mix64 k u v).toNat = (d * k.toNat) % 2 ^ 64) ∧
  mix64 Config.sourceMixK 0x0000000000000001 0x0000000000000000 = 0xF4FF80EC63C103D4

/-- 40_mixing.md R102: the corner cases of `mix64`, and the lane they arise in. -/
def Obligations.Mix64CornerCases : Prop :=
  (∀ k : Word, mix64 k 0 0 = 0) ∧
  (∀ k u : Word, mix64 k u u = (u * k ^^^ ((u * k) >>> 47)) * k) ∧
  (∀ (k : Word) (w : Vector Word 6) (x a : Fin 6 → Word) (p : Fin 6 → Fin 6) (i : Fin 6),
    p i = i → a i = 0 →
    (transition k w x a p)[i] = (w[i] * k ^^^ ((w[i] * k) >>> 47)) * k ^^^ x i) ∧
  mix64 Config.sourceMixK 1 0 = 0xF4FF80EC63C103D4 ∧
  mix64 Config.sourceMixK 0 1 = 0xB91445CE692F0CE5 ∧
  mix64 Config.sourceMixK 0xFFFFFFFFFFFFFFFF 0xFFFFFFFFFFFFFFFF = 0xE286FB3AE0B4292F

/-- 40_mixing.md R103: each lane computes from its own old word, its ADD and XOR entries and the old word
that the permutation entry selects; and the example of R103. -/
def Obligations.TransitionLanesReadTheOldWords : Prop :=
  (∀ (k : Word) (w : Vector Word 6) (x a : Fin 6 → Word) (p : Fin 6 → Fin 6) (i : Fin 6),
    (transition k w x a p)[i] = mix64 k (w[i] + a i) w[p i] ^^^ x i) ∧
  (transition Config.sourceMixK
      (Vector.ofFn fun i : Fin 6 => 0x1111111111111111 * BitVec.ofNat 64 (i.val + 1))
      (fun _ => 0) (fun _ => 0) (fun i => i))[0] = 0xBDEE34893EB458AF

/-- 40_mixing.md R105: a mixing round of row `n` writes all six words from the old ones, with the
permutation row of RND before its increment, and increments RND modulo 256; nothing else changes. -/
def Obligations.MixRoundWritesWordsAndRoundOnly : Prop :=
  ∀ (cfg : Config) (n : Fin 257) (s : State),
    (∀ i : Fin 6, (mixRound cfg n s).words[i] =
      mix64 cfg.mixK (s.words[i] + cfg.tables.addRows n i)
          s.words[cfg.tables.permRows ⟨s.rnd.toNat, s.rnd.isLt⟩ i]
        ^^^ cfg.tables.xorRows n i) ∧
    (mixRound cfg n s).rnd.toNat = (s.rnd.toNat + 1) % 256 ∧
    (s.rnd = 255 → (mixRound cfg n s).rnd = 0) ∧
    { mixRound cfg n s with words := s.words, rnd := s.rnd } = s

/-- 20_memory.md R56, 42_finalize.md R131: byte `s` of the state is bits `8*(s%8)+7` to `8*(s%8)` of word
`s/8`: the words are a little-endian sequence of 48 bytes. -/
def Obligations.ExtractByteIsLittleEndian : Prop :=
  ∀ (w : Vector Word 6) (i : Fin 6) (k : Fin 8) (sel : Fin 48), sel.val = 8 * i.val + k.val →
    (extractByte w sel).toNat = w[i].toNat / 2 ^ (8 * k.val) % 256

/-! ## The sequencer -/

/-- 42_finalize.md §3: one round of the engine with its indices in range: the round of row FB, the byte
selected from the NEW words into `OB[FIDX]`, and the sequencer moved on, or ended by the 48th round. -/
def Obligations.FinalizationRoundCompletes : Prop :=
  ∀ (s : State) (hi : s.fidx.toNat < 48) (hb : s.fb.toNat < 257), engineMoves s = true →
    ∃ t, step s = .next t ∧
      (∀ i : Fin 6, t.words[i] = lanesOf Config.machine ⟨s.fb.toNat, hb⟩ s.rnd s.words i) ∧
      t.rnd = s.rnd + 1 ∧
      t.ob[s.fidx.toNat] =
        extractByte t.words (Config.machine.tables.finalSelector ⟨s.fidx.toNat, hi⟩) ∧
      (∀ j : Fin 48, j.val ≠ s.fidx.toNat → t.ob[j] = s.ob[j]) ∧
      (s.fidx = 47 →
        t.mode = .idle ∧ t.fidx = 0 ∧ t.fb = 256 ∧ t.dvalid = true ∧
        t.fin = (s.fin || Config.machine.lockOnDigest)) ∧
      (s.fidx ≠ 47 →
        t.mode = .finalizing ∧ t.fidx = s.fidx + 1 ∧ t.fb = t.ob[s.fidx.toNat].zeroExtend 9 ∧
        t.dvalid = s.dvalid ∧ t.fin = s.fin) ∧
      t.err = s.err ∧ t.port = s.port ∧ t.resp = s.resp ∧ t.draws = s.draws

/-- 42_finalize.md R136: if RND = n when the sequence starts, round `k` uses permutation row
`(n + k) mod 256`, with the sentinel row in round 0 and the row of the byte emitted before in every
other round; the sequence ends with RND = n + 48. -/
def Obligations.EveryRoundUsesItsRows : Prop :=
  ∀ (cfg : Config) (s : State), AtFirstRound s →
    (∀ k : Nat, k < 48 → ∃ a b,
      finRounds cfg k s = .next a ∧ finRound cfg a = .next b ∧ a.mode = .finalizing ∧
      (∀ i : Fin 6, b.words[i] =
        lanesOf cfg (if h : k = 0 then ⟨256, by decide⟩ else rowOfByte (a.ob.toList.getD (k - 1) 0))
          (BitVec.ofNat 8 (s.rnd.toNat + k)) a.words i)) ∧
    ∃ t, finRounds cfg 48 s = .next t ∧ t.mode = .idle ∧ t.rnd = BitVec.ofNat 8 (s.rnd.toNat + 48)

/-- 42_finalize.md R134, R137, R139: DIGEST and its 48 rounds leave the words, the round counter and the
48 bytes of the source's atomic `digest`, whatever the state it found, and end the sequence. -/
def Obligations.SequencedDigestEqualsSourceDigest : Prop :=
  ∀ s : State, s.fin = false →
    ∃ a t, exec .digest s = .next a ∧ finRounds Config.machine 48 a = .next t ∧
      (sourceDigest Config.machine s.words s.rnd).output.length = 48 ∧
      t = { s with
        words := (sourceDigest Config.machine s.words s.rnd).words,
        rnd := (sourceDigest Config.machine s.words s.rnd).round,
        ob := Vector.ofFn fun j => (sourceDigest Config.machine s.words s.rnd).output.getD j.val 0,
        mode := .idle, fidx := 0, fb := 256, dvalid := true, fin := Config.machine.lockOnDigest }

/-- 42_finalize.md §3, 20_memory.md §4, over the schedules of log 1 (the model's choice of form): the same
under EVERY schedule without a hardware reset. From the state an accepted DIGEST leaves, whatever the host issues, the machine stays
FINALIZING until it reaches an IDLE state, within two steps for each round and one for each host
event; that state holds the source's digest. -/
def Obligations.DigestIsTheSameUnderEverySchedule : Prop :=
  ∀ s : State, AtFirstRound s → noReset s.host = true →
    ∃ k t, k ≤ s.host.length + 96 ∧ Sys2Proof.core.run k s = .next t ∧
      t.mode = .idle ∧ t.dvalid = true ∧
      t.words = (sourceDigest Config.machine s.words s.rnd).words ∧
      t.rnd = (sourceDigest Config.machine s.words s.rnd).round ∧
      t.ob.toList = (sourceDigest Config.machine s.words s.rnd).output ∧
      ∀ j, j < k → ∃ u : State, Sys2Proof.core.run j s = .next u ∧ u.mode = .finalizing

/-- 70_reset_and_hazards.md §2, over the schedules of log 1 (the model's choice of form): the hold always
ends: from every state that meets the invariant, under
every schedule without a hardware reset, IDLE is reached within two steps for each round left and one
for each host event. -/
def Obligations.HoldAlwaysEnds : Prop :=
  ∀ s : State, MachineInv s → noReset s.host = true →
    ∃ k t, k ≤ s.host.length + 2 * (48 - s.fidx.toNat) ∧ Sys2Proof.core.run k s = .next t ∧
      t.mode = .idle

/-- 20_memory.md R64: the host never observes W, RND or OB between two rounds. Two FINALIZING states that
differ only in what the sequence computes (words, round counter, feedback, buffer) take steps, with
the same response to the host, to states that again differ only in that. -/
def Obligations.HostSeesNothingOfTheRunningSequence : Prop :=
  ∀ s t s' t' : State, s.mode = .finalizing → SameButDigest s t →
    step s = .next s' → step t = .next t' → SameButDigest s' t'

/-! ## Messages -/

/-- 41_update.md R125: RESET and then any bytes leave the left fold of the mixing round over the bytes,
`RND = n mod 256` and `FIN = 0`, from any state. -/
def Obligations.FeedFoldsTheMessage : Prop :=
  ∀ (bs : List Byte) (s : State), ∃ t, execAll (.reset :: bs.map .consume) s = .next t ∧
    t.words =
      (bs.foldl (fun (d : Vector Word 6 × Nat) b =>
          (Vector.ofFn (lanesOf Config.machine (rowOfByte b) (BitVec.ofNat 8 d.2) d.1), d.2 + 1))
        (Vector.ofFn Config.machine.tables.initVector, 0)).1 ∧
    t.rnd.toNat = bs.length % 256 ∧ t.fin = false

/-- 43_control.md R154, 30_encoding.md R92: HASH of any bytes, issued to an idle instance with nothing
outstanding, runs to the end and leaves the digest that the source's `compute` gives, from whatever
state it found (R151); the last response is DOUT5 of that digest. The schedule is the one of `hashEvents`,
with no silent step between two accesses (log 22, the model's choice); that the digest is the same under
every other one is `Obligations.DigestIsTheSameUnderEverySchedule`. -/
def Obligations.HashComputesTheSourceDigest : Prop :=
  ∀ (bs : List Byte) (s : State), s.mode = .idle → s.port = none → s.host = hashEvents bs →
    ∃ k t, Sys2Proof.core.run k s = .next t ∧ t.host = [] ∧ t.port = none ∧ t.mode = .idle ∧
      t.ob.toList = (sourceCompute Config.machine bs).output ∧
      t.rnd = BitVec.ofNat 8 (bs.length + 48) ∧ t.dvalid = true ∧ t.err = 0 ∧
      t.resp = some { ok := true, data := some (doutWord t.ob 5) }

/-- 43_control.md R151: RESET makes an idle instance agree with a hardware reset of any instance of the
machine in every item of state. -/
def Obligations.ResetCommandEqualsHardwareReset : Prop :=
  ∀ (s r t : State) (rest : List HostEvent), s.mode = .idle → exec .reset s = .next t →
    r.host = .reset :: rest →
    ∃ u, step r = .next u ∧
      t.words = u.words ∧ t.rnd = u.rnd ∧ t.fin = u.fin ∧ t.mode = u.mode ∧ t.fidx = u.fidx ∧
      t.fb = u.fb ∧ t.ob = u.ob ∧ t.dvalid = u.dvalid ∧ t.err = u.err

/-! ## The window -/

/-- 20_memory.md R62: what one host access does: an illegal one is answered at once with an error
response, data 0 for a read, and changes nothing but ERR; a legal one is held while FINALIZING, but
for STATUS and VERSION; else a read is answered with the register at its offset and changes nothing,
and a write executes its command. -/
def Obligations.HostAccessFollowsItsRule : Prop :=
  ∀ (s : State) (t : HostAccess) (rest : List HostEvent),
    s.port = none → s.host = .issue t :: rest →
    (IllegalHostAccess t →
      step s = .next { s with
        host := rest, err := errAfter 3 s.err,
        resp := some { ok := false, data := if t.kind = .read then some 0 else none } }) ∧
    (¬ IllegalHostAccess t → MustWait s t →
      step s = .next { s with host := rest, port := some t }) ∧
    (¬ IllegalHostAccess t → ¬ MustWait s t → t.kind = .read →
      ∃ r : Reg, r.offset = t.offset ∧
        step s = .next { s with
          host := rest, resp := some { ok := true, data := some (readRegister Config.machine r s) } }) ∧
    (¬ IllegalHostAccess t → ¬ MustWait s t → t.kind = .write →
      step s =
        executeCommand t.data { s with host := rest, resp := some { ok := true, data := none } })

/-- 20_memory.md R60: the offsets of the registers, no two alike, and no register anywhere else. -/
def Obligations.RegistersStandAtTheirOffsets : Prop :=
  Reg.offset .status = 0x08 ∧ Reg.offset .version = 0x10 ∧ Reg.offset .round = 0x18 ∧
  (∀ i : Fin 6, Reg.offset (.word i) = 0x20 + 8 * i.val) ∧
  (∀ j : Fin 6, Reg.offset (.dout j) = 0x50 + 8 * j.val) ∧
  (∀ (r : Reg) (off : Nat), registerAt? off = some r ↔ off = r.offset) ∧
  (∀ off : Nat, registerAt? off = none ↔ off % 8 ≠ 0 ∨ off = 0 ∨ 0x80 ≤ off)

/-- 10_state.md R33: the bits of STATUS, which a read gives in every mode, and their reset values. -/
def Obligations.StatusShowsTheFlags : Prop :=
  (∀ (s : State) (rest : List HostEvent),
    s.port = none → s.host = .issue (HostAccess.readAt 0x08) :: rest →
    ∃ v : Word, step s = .next { s with host := rest, resp := some { ok := true, data := some v } } ∧
      (v.getLsbD 0 = true ↔ s.mode = .finalizing) ∧
      v.getLsbD 1 = s.dvalid ∧ v.getLsbD 2 = s.fin ∧
      v.getLsbD 3 = Config.machine.lockOnDigest ∧
      v.toNat / 16 = s.err.toNat) ∧
  (statusWord Config.machine State.reset).toNat = 8 * Config.machine.lockOnDigest.toNat

/-- 10_state.md R34: VERSION reads the configuration's triple in every mode; 2.0.0 reads as
0x0000000000020000. -/
def Obligations.VersionShowsTheTriple : Prop :=
  (∀ (s : State) (rest : List HostEvent),
    s.port = none → s.host = .issue (HostAccess.readAt 0x10) :: rest →
    ∃ v : Word, step s = .next { s with host := rest, resp := some { ok := true, data := some v } } ∧
      v.toNat % 0x100 = Config.machine.version.patch.toNat ∧
      v.toNat / 0x100 % 0x100 = Config.machine.version.minor.toNat ∧
      v.toNat / 0x10000 = Config.machine.version.major.toNat) ∧
  versionWord { major := 2, minor := 0, patch := 0 } = 0x0000000000020000

/-- 10_state.md R35: ROUND reads RND when IDLE, its upper bits 0, and is held while FINALIZING; after
reset it reads 0. -/
def Obligations.RoundShowsTheCounter : Prop :=
  (∀ (s : State) (rest : List HostEvent),
    s.port = none → s.host = .issue (HostAccess.readAt 0x18) :: rest →
    (s.mode = .idle → ∃ v : Word, v.toNat = s.rnd.toNat ∧
      step s = .next { s with host := rest, resp := some { ok := true, data := some v } }) ∧
    (s.mode = .finalizing →
      step s = .next { s with host := rest, port := some (HostAccess.readAt 0x18) })) ∧
  readRegister Config.machine .round State.reset = 0

/-- 10_state.md R36: WORDi, at 0x20 + 8*i, reads the whole of `W[i]` when IDLE and is held while
FINALIZING; after reset it reads `INIT_VECTOR[i]`. -/
def Obligations.WordRegistersShowTheState : Prop :=
  ∀ i : Fin 6,
    (∀ (s : State) (rest : List HostEvent),
      s.port = none → s.host = .issue (HostAccess.readAt (0x20 + 8 * i.val)) :: rest →
      (s.mode = .idle →
        step s = .next { s with host := rest, resp := some { ok := true, data := some s.words[i] } }) ∧
      (s.mode = .finalizing →
        step s = .next { s with
          host := rest, port := some (HostAccess.readAt (0x20 + 8 * i.val)) })) ∧
    readRegister Config.machine (.word i) State.reset = Config.machine.tables.initVector i

/-- 10_state.md R37: DOUTj, at 0x50 + 8*j, reads `OB[8j]` to `OB[8j+7]` packed little-endian when IDLE,
whatever DVALID is, and is held while FINALIZING; after reset it reads 0. -/
def Obligations.DoutRegistersPackTheDigest : Prop :=
  ∀ j : Fin 6,
    (∀ (s : State) (rest : List HostEvent),
      s.port = none → s.host = .issue (HostAccess.readAt (0x50 + 8 * j.val)) :: rest →
      (s.mode = .idle →
        ∃ v : Word, step s = .next { s with host := rest, resp := some { ok := true, data := some v } } ∧
          ∀ k : Fin 8, v.toNat / 2 ^ (8 * k.val) % 256 =
            (s.ob[8 * j.val + k.val]'(by omega)).toNat) ∧
      (s.mode = .finalizing →
        step s = .next { s with
          host := rest, port := some (HostAccess.readAt (0x50 + 8 * j.val)) })) ∧
    readRegister Config.machine (.dout j) State.reset = 0

/-- 70_reset_and_hazards.md R210: a held access stays outstanding while the sequence runs, and once IDLE
it proceeds exactly as if it were issued then. -/
def Obligations.HeldAccessProceedsAsIfIssuedAfterwards : Prop :=
  ∀ (s : State) (t : HostAccess), s.port = some t → resets s = false →
    (s.mode = .finalizing → ∀ s', step s = .next s' → s'.port = some t) ∧
    (s.mode = .idle → (∀ rest, s.host ≠ .quiet :: rest) →
      step s = step { s with port := none, host := .issue t :: s.host }) ∧
    (s.mode = .idle → ∀ rest, s.host = .quiet :: rest →
      step s = step { s with port := none, host := .issue t :: rest })

/-- 30_encoding.md R91, with the model's choice of log 15 for the schedule of a poll: WAIT reads STATUS, and
the read answers the STATUS word of the state; BUSY (its bit 0) = 0 ends it; BUSY = 1 leaves one step to
the engine and reads again. -/
def Obligations.WaitReadsStatusUntilNotBusy : Prop :=
  ∀ (s : State) (rest : List HostEvent), s.port = none →
    (s.host = .poll false :: rest →
      (s.mode = .idle → (statusWord Config.machine s).getLsbD 0 = false ∧
        step s = .next { s with
          host := rest, resp := some { ok := true, data := some (statusWord Config.machine s) } }) ∧
      (s.mode = .finalizing → (statusWord Config.machine s).getLsbD 0 = true ∧
        step s = .next { s with
          host := .poll true :: rest,
          resp := some { ok := true, data := some (statusWord Config.machine s) } })) ∧
    (s.host = .poll true :: rest → step s = step { s with host := .quiet :: .poll false :: rest })

/-- 70_reset_and_hazards.md R203, with the model's choice of log 14: an IDLE block with nothing outstanding
and nothing from the host stays as it is. -/
def Obligations.IdleBlockWaits : Prop :=
  ∀ s : State, s.mode = .idle → s.port = none → s.host = [] → step s = .next s

/-! ## Reset and invariants -/

/-- 10_state.md R39: the state after reset, and what the hardware reset and RESET write to every item of
state; RESET finds MODE at its value. -/
def Obligations.BothResetsWriteTheResetValues : Prop :=
  HasResetValues Config.machine State.reset ∧
  (∀ (s : State) (rest : List HostEvent), s.host = .reset :: rest →
    ∃ t, step s = .next t ∧ HasResetValues Config.machine t) ∧
  (∀ s : State, s.mode = .idle → ∃ t, exec .reset s = .next t ∧ HasResetValues Config.machine t)

/-- 70_reset_and_hazards.md R200: the hardware reset, in any state and so in the middle of a sequence,
writes the reset values, and a held transaction is discarded with no effect on the state. Of its
response nothing is said: it is a free value (log 4). -/
def Obligations.HardwareResetOverridesEverything : Prop :=
  ∀ (s : State) (rest : List HostEvent), s.host = .reset :: rest →
    ∃ t, step s = .next t ∧ HasResetValues Config.machine t ∧ t.port = none ∧ t.host = rest

/-- The reset state meets the invariant, whatever the host is to issue. -/
def Obligations.ResetStateMeetsTheInvariant : Prop :=
  ∀ l : List HostEvent, MachineInv { State.reset with host := l }

/-- 10_state.md R25 to R27, 60_exceptions.md R170, 70_reset_and_hazards.md R210: every step keeps the
invariant. -/
def Obligations.EveryStepKeepsTheInvariant : Prop :=
  ∀ s t : State, MachineInv s → step s = .next t → MachineInv t

/-- 20_memory.md R52, R69: a state that meets the invariant always has a next state: table reads cannot
fault, and no command or access stops the machine. -/
def Obligations.TheMachineNeverStops : Prop :=
  ∀ s : State, MachineInv s → ∃ t, step s = .next t

/-- 10_state.md R27: the invariants of every reachable state. The schedules of the host, the engine and the
hardware reset are the host lists of log 1 (the model's choice of form): every list, and every number of
steps. -/
def Obligations.ReachableStatesMeetTheStatedInvariants : Prop :=
  ∀ (l : List HostEvent) (k : Nat) (t : State),
    Sys2Proof.core.run k { State.reset with host := l } = .next t →
    (t.mode = .idle → t.fidx = 0 ∧ t.fb = 256) ∧
    (t.mode = .finalizing → t.fidx.toNat ≤ 47 ∧ (t.fb = 256 ↔ t.fidx = 0)) ∧
    (t.fin = true → Config.machine.lockOnDigest = true ∧ t.mode = .idle ∧ t.dvalid = true) ∧
    (t.mode = .finalizing → t.dvalid = false)

/-! ## Whole-machine rules -/

/-- 10_state.md R20, R22: the words and the round counter are written by a mixing round (an accepted
CONSUME, or a round of the engine) and by the resets, and by no other step; a mixing round adds 1 to
RND. -/
def Obligations.WordsAndRoundHaveOnlyTheirWriters : Prop :=
  ∀ s t : State, step s = .next t → ¬ writesResetValues s →
    (t.words = s.words ∧ t.rnd = s.rnd) ∨
    (((∃ b, acceptedCommand s = some (.consume b)) ∨ engineMoves s = true) ∧ t.rnd = s.rnd + 1)

/-- 10_state.md R23: FIN becomes 1 only at the end of the 48th round and only with LOCK_ON_DIGEST, and it
becomes 0 only by a reset. -/
def Obligations.FinishedFlagHasOnlyItsWriters : Prop :=
  ∀ s t : State, step s = .next t → ¬ writesResetValues s →
    t.fin = s.fin ∨
    (t.fin = true ∧ engineMoves s = true ∧ s.fidx = 47 ∧ Config.machine.lockOnDigest = true)

/-- 10_state.md R24, R29: MODE becomes FINALIZING only by an accepted DIGEST, which clears DVALID, and
IDLE only by the 48th round, which sets DVALID, or by the hardware reset; DVALID has no other
writer but the resets. -/
def Obligations.ModeAndDigestValidHaveOnlyTheirWriters : Prop :=
  ∀ s t : State, step s = .next t → ¬ writesResetValues s →
    (t.mode = s.mode ∧ t.dvalid = s.dvalid) ∨
    (acceptedCommand s = some .digest ∧ t.mode = .finalizing ∧ t.dvalid = false) ∨
    (engineMoves s = true ∧ s.fidx = 47 ∧ t.mode = .idle ∧ t.dvalid = true)

/-- 10_state.md R28: a byte of OB is written only by the round whose index it has, and by the resets. -/
def Obligations.OutputBufferHasOnlyItsWriters : Prop :=
  ∀ (s t : State) (j : Fin 48), step s = .next t → ¬ writesResetValues s →
    ¬ (engineMoves s = true ∧ s.fidx.toNat = j.val) → t.ob[j] = s.ob[j]

/-- 10_state.md R30, 60_exceptions.md R172: a recorded error stays until a reset, and an error recorded
has one of the codes 1, 2, 3. -/
def Obligations.FirstErrorIsKeptUntilReset : Prop :=
  ∀ s t : State, step s = .next t → ¬ writesResetValues s →
    (s.err ≠ 0 → t.err = s.err) ∧
    (s.err = 0 → t.err = 0 ∨ t.err = 1 ∨ t.err = 2 ∨ t.err = 3)

/-! ## Configuration, assembler, platform -/

/-- 00_scope.md R7: exactly the table sets with the stated shapes and ranges define an instance, whose
tables are the entries as loaded; every other set is refused. A row need not be a bijection. -/
def Obligations.BootAcceptsExactlyTheCheckedTables : Prop :=
  ∀ r : RawConfig,
    ((r.initVector.length = 6 ∧
      (r.xorRows.length = 257 ∧ ∀ row ∈ r.xorRows, row.length = 6) ∧
      (r.addRows.length = 257 ∧ ∀ row ∈ r.addRows, row.length = 6) ∧
      (r.permRows.length = 256 ∧ ∀ row ∈ r.permRows, row.length = 6 ∧ ∀ e ∈ row, e.toNat ≤ 5) ∧
      (r.finalSelector.length = 48 ∧ ∀ e ∈ r.finalSelector, e.toNat ≤ 47) ∧
      r.mixK.toNat % 2 = 1) ↔
      ∃ cfg, loadConfig r = some cfg) ∧
    (loadConfig r = none → boot r = .refused .constantsCorrupt) ∧
    (∀ cfg, loadConfig r = some cfg →
      boot r = .next (State.resetOf cfg) ∧ HasResetValues cfg (State.resetOf cfg) ∧
      cfg.mixK = r.mixK ∧ cfg.version = r.version ∧ cfg.lockOnDigest = r.lockOnDigest ∧
      (∀ i : Fin 6, r.initVector[i.val]? = some (cfg.tables.initVector i)) ∧
      (∀ (n : Fin 257) (i : Fin 6),
        r.xorRows[n.val]?.bind (·[i.val]?) = some (cfg.tables.xorRows n i) ∧
        r.addRows[n.val]?.bind (·[i.val]?) = some (cfg.tables.addRows n i)) ∧
      (∀ (n : Fin 256) (i : Fin 6),
        (r.permRows[n.val]?.bind (·[i.val]?)).map BitVec.toNat =
          some (cfg.tables.permRows n i).val) ∧
      (∀ i : Fin 48,
        r.finalSelector[i.val]?.map BitVec.toNat = some (cfg.tables.finalSelector i).val))

/-- 30_encoding.md R89: FEED of any list of bytes is CONSUME of each, in order, the refusal of a byte out of
range included; of none, nothing. -/
def Obligations.FeedExpandsToConsumesInOrder : Prop :=
  (∀ bs : List ByteLit, assemble [.feed bs] = assemble (bs.map .consume)) ∧
  assemble [.feed []] = some []

/-- 30_encoding.md R92: HASH is RESET, FEED, DIGEST, READDIGEST, and HASHSTR the same with FEEDSTR. -/
def Obligations.HashExpandsToItsFourParts : Prop :=
  (∀ bs : List ByteLit,
    assemble [.hash bs] = assemble [.reset, .feed bs, .digest, .readDigest]) ∧
  (∀ text : List Char,
    assemble [.hashStr text] = assemble [.reset, .feedStr text, .digest, .readDigest])

/-- 30_encoding.md §2, R88: a byte outside 0..255 or a character that is not printable ASCII, in CONSUME,
FEED or HASH, never reaches the block. R88 says no more than that; that the WHOLE program is then refused, so
that none of its statements issues anything, that an immediate over 64 bits and a line that is no statement
are assembly errors too, and that nothing else is one, is the model's choice (log 16). -/
def Obligations.AssemblyErrorNeverReachesTheBlock : Prop :=
  (∀ p : List Stmt, assemble p = none ↔ ∃ st ∈ p, AssemblyError st) ∧
  (∀ (lines : List (List Char)) (line : List Char), line ∈ lines → parseLine line = none →
    assembleText lines = none) ∧
  (∀ (lines : List (List Char)) (line : List Char) (st : Stmt), line ∈ lines →
    parseLine line = some (some st) → AssemblyError st → assembleText lines = none)

/-- 43_control.md (state isolation), on the platform of log 10 (the model's choice of form): a step of one instance changes no other, and steps of two instances commute: the
results of concurrent and of sequential operation are the same. -/
def Obligations.InstancesNeverObserveEachOther : Prop :=
  ∀ (j k : Nat) (p q : Platform), j ≠ k → p.stepAt k = .next q →
    q.instances[j]? = p.instances[j]? ∧
    (∀ r, p.stepAt j = .next r → ∃ u, q.stepAt j = .next u ∧ r.stepAt k = .next u)

/-- 60_exceptions.md §4, 20_memory.md §3, on the platform of log 10 (the model's choice of form): an access
at a platform address in the window of an instance joins the events of that one instance, at its offset
from BASE, and touches no other instance; where windows overlap, the instance of the lowest number has it
(log 10). An address in no window leaves the platform as it is. -/
def Obligations.PlatformAccessReachesItsInstanceOnly : Prop :=
  ∀ (addr k width : Nat) (kind : AccessKind) (data : Word) (p : Platform),
    (k < Config.nInstances → Config.base k ≤ addr → addr < Config.base k + 0x100 →
      (∀ j, j < k → ¬ WindowHolds j addr) →
      (∀ j, j ≠ k → (p.access addr kind width data).instances[j]? = p.instances[j]?) ∧
      (∀ s, p.instances[k]? = some s → ∃ off : Nat,
        addr = Config.base k + off ∧
        (p.access addr kind width data).instances[k]? =
          some { s with host := s.host ++ [.issue { kind := kind, offset := off, width := width,
                                                    data := data }] })) ∧
    ((∀ j, j < Config.nInstances → ¬ WindowHolds j addr) → p.access addr kind width data = p)
end

