-- ==== Sys2Proof/Laws/Assembler.lean ====
section
/-! SUPPORT. The checks of the assembler say what an assembly error is. -/

namespace Sys2Proof.Machine

open Sys2Proof.Safety

theorem byteLit_wellFormed_eq_false_iff (b : ByteLit) : b.wellFormed = false ↔ ByteOutOfRange b := by
  cases b with
  | num n => simp [ByteLit.wellFormed, ByteOutOfRange]
  | chr c =>
    simp only [ByteLit.wellFormed, ByteOutOfRange, decide_eq_false_iff_not]
    omega

theorem stmt_wellFormed_eq_false_iff (st : Stmt) : st.wellFormed = false ↔ AssemblyError st := by
  cases st <;> simp [Stmt.wellFormed, AssemblyError, byteLit_wellFormed_eq_false_iff]

end Sys2Proof.Machine
end

