-- ==== Sys2Proof/Laws/State.lean ====
section
/-! SUPPORT. What each named update of the state does to each field, so that no later proof unfolds a
record update. -/

namespace Sys2Proof.Machine

@[simp] theorem respond_words (r : Response) (s : State) : (respond r s).words = s.words := rfl
@[simp] theorem respond_rnd (r : Response) (s : State) : (respond r s).rnd = s.rnd := rfl
@[simp] theorem respond_fin (r : Response) (s : State) : (respond r s).fin = s.fin := rfl
@[simp] theorem respond_mode (r : Response) (s : State) : (respond r s).mode = s.mode := rfl
@[simp] theorem respond_fidx (r : Response) (s : State) : (respond r s).fidx = s.fidx := rfl
@[simp] theorem respond_fb (r : Response) (s : State) : (respond r s).fb = s.fb := rfl
@[simp] theorem respond_ob (r : Response) (s : State) : (respond r s).ob = s.ob := rfl
@[simp] theorem respond_dvalid (r : Response) (s : State) : (respond r s).dvalid = s.dvalid := rfl
@[simp] theorem respond_err (r : Response) (s : State) : (respond r s).err = s.err := rfl
@[simp] theorem respond_port (r : Response) (s : State) : (respond r s).port = s.port := rfl
@[simp] theorem respond_host (r : Response) (s : State) : (respond r s).host = s.host := rfl
@[simp] theorem respond_resp (r : Response) (s : State) : (respond r s).resp = some r := rfl
@[simp] theorem respond_draws (r : Response) (s : State) : (respond r s).draws = s.draws := rfl

@[simp] theorem raise_words (e : ErrorKind) (s : State) : (raise e s).words = s.words := by unfold raise; split <;> rfl
@[simp] theorem raise_rnd (e : ErrorKind) (s : State) : (raise e s).rnd = s.rnd := by unfold raise; split <;> rfl
@[simp] theorem raise_fin (e : ErrorKind) (s : State) : (raise e s).fin = s.fin := by unfold raise; split <;> rfl
@[simp] theorem raise_mode (e : ErrorKind) (s : State) : (raise e s).mode = s.mode := by unfold raise; split <;> rfl
@[simp] theorem raise_fidx (e : ErrorKind) (s : State) : (raise e s).fidx = s.fidx := by unfold raise; split <;> rfl
@[simp] theorem raise_fb (e : ErrorKind) (s : State) : (raise e s).fb = s.fb := by unfold raise; split <;> rfl
@[simp] theorem raise_ob (e : ErrorKind) (s : State) : (raise e s).ob = s.ob := by unfold raise; split <;> rfl
@[simp] theorem raise_dvalid (e : ErrorKind) (s : State) : (raise e s).dvalid = s.dvalid := by unfold raise; split <;> rfl
@[simp] theorem raise_err (e : ErrorKind) (s : State) : (raise e s).err = if s.err = 0 then errorCode e else s.err := by unfold raise; split <;> rfl
@[simp] theorem raise_port (e : ErrorKind) (s : State) : (raise e s).port = s.port := by unfold raise; split <;> rfl
@[simp] theorem raise_host (e : ErrorKind) (s : State) : (raise e s).host = s.host := by unfold raise; split <;> rfl
@[simp] theorem raise_resp (e : ErrorKind) (s : State) : (raise e s).resp = s.resp := by unfold raise; split <;> rfl
@[simp] theorem raise_draws (e : ErrorKind) (s : State) : (raise e s).draws = s.draws := by unfold raise; split <;> rfl

@[simp] theorem mixRound_words (cfg : Config) (n : Fin 257) (s : State) : (mixRound cfg n s).words = roundWords cfg n s.rnd s.words := rfl
@[simp] theorem mixRound_rnd (cfg : Config) (n : Fin 257) (s : State) : (mixRound cfg n s).rnd = s.rnd + 1 := rfl
@[simp] theorem mixRound_fin (cfg : Config) (n : Fin 257) (s : State) : (mixRound cfg n s).fin = s.fin := rfl
@[simp] theorem mixRound_mode (cfg : Config) (n : Fin 257) (s : State) : (mixRound cfg n s).mode = s.mode := rfl
@[simp] theorem mixRound_fidx (cfg : Config) (n : Fin 257) (s : State) : (mixRound cfg n s).fidx = s.fidx := rfl
@[simp] theorem mixRound_fb (cfg : Config) (n : Fin 257) (s : State) : (mixRound cfg n s).fb = s.fb := rfl
@[simp] theorem mixRound_ob (cfg : Config) (n : Fin 257) (s : State) : (mixRound cfg n s).ob = s.ob := rfl
@[simp] theorem mixRound_dvalid (cfg : Config) (n : Fin 257) (s : State) : (mixRound cfg n s).dvalid = s.dvalid := rfl
@[simp] theorem mixRound_err (cfg : Config) (n : Fin 257) (s : State) : (mixRound cfg n s).err = s.err := rfl
@[simp] theorem mixRound_port (cfg : Config) (n : Fin 257) (s : State) : (mixRound cfg n s).port = s.port := rfl
@[simp] theorem mixRound_host (cfg : Config) (n : Fin 257) (s : State) : (mixRound cfg n s).host = s.host := rfl
@[simp] theorem mixRound_resp (cfg : Config) (n : Fin 257) (s : State) : (mixRound cfg n s).resp = s.resp := rfl
@[simp] theorem mixRound_draws (cfg : Config) (n : Fin 257) (s : State) : (mixRound cfg n s).draws = s.draws := rfl

@[simp] theorem startFinalization_words (s : State) : (startFinalization s).words = s.words := rfl
@[simp] theorem startFinalization_rnd (s : State) : (startFinalization s).rnd = s.rnd := rfl
@[simp] theorem startFinalization_fin (s : State) : (startFinalization s).fin = s.fin := rfl
@[simp] theorem startFinalization_mode (s : State) : (startFinalization s).mode = .finalizing := rfl
@[simp] theorem startFinalization_fidx (s : State) : (startFinalization s).fidx = 0 := rfl
@[simp] theorem startFinalization_fb (s : State) : (startFinalization s).fb = 256 := rfl
@[simp] theorem startFinalization_ob (s : State) : (startFinalization s).ob = s.ob := rfl
@[simp] theorem startFinalization_dvalid (s : State) : (startFinalization s).dvalid = false := rfl
@[simp] theorem startFinalization_err (s : State) : (startFinalization s).err = s.err := rfl
@[simp] theorem startFinalization_port (s : State) : (startFinalization s).port = s.port := rfl
@[simp] theorem startFinalization_host (s : State) : (startFinalization s).host = s.host := rfl
@[simp] theorem startFinalization_resp (s : State) : (startFinalization s).resp = s.resp := rfl
@[simp] theorem startFinalization_draws (s : State) : (startFinalization s).draws = s.draws := rfl

@[simp] theorem commandReset_words (cfg : Config) (s : State) : (commandReset cfg s).words = Vector.ofFn cfg.tables.initVector := rfl
@[simp] theorem commandReset_rnd (cfg : Config) (s : State) : (commandReset cfg s).rnd = 0 := rfl
@[simp] theorem commandReset_fin (cfg : Config) (s : State) : (commandReset cfg s).fin = false := rfl
@[simp] theorem commandReset_mode (cfg : Config) (s : State) : (commandReset cfg s).mode = s.mode := rfl
@[simp] theorem commandReset_fidx (cfg : Config) (s : State) : (commandReset cfg s).fidx = 0 := rfl
@[simp] theorem commandReset_fb (cfg : Config) (s : State) : (commandReset cfg s).fb = 256 := rfl
@[simp] theorem commandReset_ob (cfg : Config) (s : State) : (commandReset cfg s).ob = Vector.replicate 48 0x00 := rfl
@[simp] theorem commandReset_dvalid (cfg : Config) (s : State) : (commandReset cfg s).dvalid = false := rfl
@[simp] theorem commandReset_err (cfg : Config) (s : State) : (commandReset cfg s).err = 0 := rfl
@[simp] theorem commandReset_port (cfg : Config) (s : State) : (commandReset cfg s).port = s.port := rfl
@[simp] theorem commandReset_host (cfg : Config) (s : State) : (commandReset cfg s).host = s.host := rfl
@[simp] theorem commandReset_resp (cfg : Config) (s : State) : (commandReset cfg s).resp = s.resp := rfl
@[simp] theorem commandReset_draws (cfg : Config) (s : State) : (commandReset cfg s).draws = s.draws := rfl

@[simp] theorem discardHeld_words (s : State) : (discardHeld s).words = s.words := by unfold discardHeld; split <;> simp_all
@[simp] theorem discardHeld_rnd (s : State) : (discardHeld s).rnd = s.rnd := by unfold discardHeld; split <;> simp_all
@[simp] theorem discardHeld_fin (s : State) : (discardHeld s).fin = s.fin := by unfold discardHeld; split <;> simp_all
@[simp] theorem discardHeld_mode (s : State) : (discardHeld s).mode = s.mode := by unfold discardHeld; split <;> simp_all
@[simp] theorem discardHeld_fidx (s : State) : (discardHeld s).fidx = s.fidx := by unfold discardHeld; split <;> simp_all
@[simp] theorem discardHeld_fb (s : State) : (discardHeld s).fb = s.fb := by unfold discardHeld; split <;> simp_all
@[simp] theorem discardHeld_ob (s : State) : (discardHeld s).ob = s.ob := by unfold discardHeld; split <;> simp_all
@[simp] theorem discardHeld_dvalid (s : State) : (discardHeld s).dvalid = s.dvalid := by unfold discardHeld; split <;> simp_all
@[simp] theorem discardHeld_err (s : State) : (discardHeld s).err = s.err := by unfold discardHeld; split <;> simp_all
@[simp] theorem discardHeld_port (s : State) : (discardHeld s).port = none := by unfold discardHeld; split <;> simp_all
@[simp] theorem discardHeld_host (s : State) : (discardHeld s).host = s.host := by unfold discardHeld; split <;> simp_all

@[simp] theorem hardwareReset_words (cfg : Config) (s : State) : (hardwareReset cfg s).words = Vector.ofFn cfg.tables.initVector := by simp [hardwareReset]
@[simp] theorem hardwareReset_rnd (cfg : Config) (s : State) : (hardwareReset cfg s).rnd = 0 := by simp [hardwareReset]
@[simp] theorem hardwareReset_fin (cfg : Config) (s : State) : (hardwareReset cfg s).fin = false := by simp [hardwareReset]
@[simp] theorem hardwareReset_mode (cfg : Config) (s : State) : (hardwareReset cfg s).mode = .idle := by simp [hardwareReset]
@[simp] theorem hardwareReset_fidx (cfg : Config) (s : State) : (hardwareReset cfg s).fidx = 0 := by simp [hardwareReset]
@[simp] theorem hardwareReset_fb (cfg : Config) (s : State) : (hardwareReset cfg s).fb = 256 := by simp [hardwareReset]
@[simp] theorem hardwareReset_ob (cfg : Config) (s : State) : (hardwareReset cfg s).ob = Vector.replicate 48 0x00 := by simp [hardwareReset]
@[simp] theorem hardwareReset_dvalid (cfg : Config) (s : State) : (hardwareReset cfg s).dvalid = false := by simp [hardwareReset]
@[simp] theorem hardwareReset_err (cfg : Config) (s : State) : (hardwareReset cfg s).err = 0 := by simp [hardwareReset]
@[simp] theorem hardwareReset_port (cfg : Config) (s : State) : (hardwareReset cfg s).port = none := by simp [hardwareReset]
@[simp] theorem hardwareReset_host (cfg : Config) (s : State) : (hardwareReset cfg s).host = s.host := by simp [hardwareReset]

@[simp] theorem pollStatus_words (rest : List HostEvent) (s : State) : (pollStatus rest s).words = s.words := rfl
@[simp] theorem pollStatus_rnd (rest : List HostEvent) (s : State) : (pollStatus rest s).rnd = s.rnd := rfl
@[simp] theorem pollStatus_fin (rest : List HostEvent) (s : State) : (pollStatus rest s).fin = s.fin := rfl
@[simp] theorem pollStatus_mode (rest : List HostEvent) (s : State) : (pollStatus rest s).mode = s.mode := rfl
@[simp] theorem pollStatus_fidx (rest : List HostEvent) (s : State) : (pollStatus rest s).fidx = s.fidx := rfl
@[simp] theorem pollStatus_fb (rest : List HostEvent) (s : State) : (pollStatus rest s).fb = s.fb := rfl
@[simp] theorem pollStatus_ob (rest : List HostEvent) (s : State) : (pollStatus rest s).ob = s.ob := rfl
@[simp] theorem pollStatus_dvalid (rest : List HostEvent) (s : State) : (pollStatus rest s).dvalid = s.dvalid := rfl
@[simp] theorem pollStatus_err (rest : List HostEvent) (s : State) : (pollStatus rest s).err = s.err := rfl
@[simp] theorem pollStatus_port (rest : List HostEvent) (s : State) : (pollStatus rest s).port = s.port := rfl
@[simp] theorem pollStatus_host (rest : List HostEvent) (s : State) : (pollStatus rest s).host = if busy s then .poll true :: rest else rest := rfl
@[simp] theorem pollStatus_resp (rest : List HostEvent) (s : State) : (pollStatus rest s).resp = some (.readOk (statusWord Config.machine s)) := rfl
@[simp] theorem pollStatus_draws (rest : List HostEvent) (s : State) : (pollStatus rest s).draws = s.draws := rfl

@[simp] theorem emitByte_words (cfg : Config) (i : Fin 48) (s : State) : (emitByte cfg i s).words = s.words := by unfold emitByte sentinel; split <;> simp_all
@[simp] theorem emitByte_rnd (cfg : Config) (i : Fin 48) (s : State) : (emitByte cfg i s).rnd = s.rnd := by unfold emitByte sentinel; split <;> simp_all
@[simp] theorem emitByte_fin (cfg : Config) (i : Fin 48) (s : State) : (emitByte cfg i s).fin = if i.val = 47 then (s.fin || cfg.lockOnDigest) else s.fin := by unfold emitByte sentinel; split <;> simp_all
@[simp] theorem emitByte_mode (cfg : Config) (i : Fin 48) (s : State) : (emitByte cfg i s).mode = if i.val = 47 then .idle else s.mode := by unfold emitByte sentinel; split <;> simp_all
@[simp] theorem emitByte_fidx (cfg : Config) (i : Fin 48) (s : State) : (emitByte cfg i s).fidx = if i.val = 47 then 0 else s.fidx + 1 := by unfold emitByte sentinel; split <;> simp_all
@[simp] theorem emitByte_fb (cfg : Config) (i : Fin 48) (s : State) : (emitByte cfg i s).fb = if i.val = 47 then 256 else zext9 (extractByte s.words (cfg.tables.finalSelector i)) := by unfold emitByte sentinel; split <;> simp_all
@[simp] theorem emitByte_ob (cfg : Config) (i : Fin 48) (s : State) : (emitByte cfg i s).ob = s.ob.set i (extractByte s.words (cfg.tables.finalSelector i)) := by unfold emitByte sentinel; split <;> simp_all
@[simp] theorem emitByte_dvalid (cfg : Config) (i : Fin 48) (s : State) : (emitByte cfg i s).dvalid = if i.val = 47 then true else s.dvalid := by unfold emitByte sentinel; split <;> simp_all
@[simp] theorem emitByte_err (cfg : Config) (i : Fin 48) (s : State) : (emitByte cfg i s).err = s.err := by unfold emitByte sentinel; split <;> simp_all
@[simp] theorem emitByte_port (cfg : Config) (i : Fin 48) (s : State) : (emitByte cfg i s).port = s.port := by unfold emitByte sentinel; split <;> simp_all
@[simp] theorem emitByte_host (cfg : Config) (i : Fin 48) (s : State) : (emitByte cfg i s).host = s.host := by unfold emitByte sentinel; split <;> simp_all
@[simp] theorem emitByte_resp (cfg : Config) (i : Fin 48) (s : State) : (emitByte cfg i s).resp = s.resp := by unfold emitByte sentinel; split <;> simp_all
@[simp] theorem emitByte_draws (cfg : Config) (i : Fin 48) (s : State) : (emitByte cfg i s).draws = s.draws := by unfold emitByte sentinel; split <;> simp_all

end Sys2Proof.Machine
end

