-- ==== Sys2Proof/Laws/Ops.lean ====
section
/-! SUPPORT. What each shared operation can do, said once. -/

namespace Sys2Proof.Machine

/-- The index a byte selects is one of the rows 0..255 (30_encoding.md R82). -/
@[simp] theorem rowIndex?_zext9 (b : Byte) : rowIndex? (zext9 b) = some (rowOfByte b) := by
  have hb := b.isLt
  have h : (zext9 b).toNat = b.toNat := by
    simp only [zext9, BitVec.truncate_eq_setWidth, BitVec.toNat_setWidth]
    omega
  unfold rowIndex?
  rw [dif_pos (by omega)]
  simp [rowOfByte, h]

/-- The sentinel is the row 256 (20_memory.md R52). -/
@[simp] theorem rowIndex?_sentinel : rowIndex? 256 = some ⟨256, by decide⟩ := by decide

theorem rowIndex?_eq_some {n : BitVec 9} (h : n.toNat < 257) : rowIndex? n = some ⟨n.toNat, h⟩ :=
  dif_pos h

theorem rowIndex?_eq_none {n : BitVec 9} (h : ¬ n.toNat < 257) : rowIndex? n = none :=
  dif_neg h

theorem selectorIndex?_eq_some {i : BitVec 6} (h : i.toNat < 48) :
    selectorIndex? i = some ⟨i.toNat, h⟩ :=
  dif_pos h

theorem selectorIndex?_eq_none {i : BitVec 6} (h : ¬ i.toNat < 48) : selectorIndex? i = none :=
  dif_neg h

/-- A byte extended to 9 bits is never the sentinel (10_state.md R26). -/
theorem zext9_ne_sentinel (b : Byte) : zext9 b ≠ 256 := by
  revert b
  decide

/-- Each lane of a transition reads the old words (40_mixing.md R103). -/
@[simp] theorem transition_getElem (k : Word) (w : Vector Word 6) (x a : Fin 6 → Word)
    (p : Fin 6 → Fin 6) (i : Nat) (h : i < 6) :
    (transition k w x a p)[i] = lane k w x a p ⟨i, h⟩ := by
  simp [transition]

/-- A finalization round in range is one mixing round and the emission of its byte (42_finalize.md
R133). -/
theorem finRound_of_range (cfg : Config) (s : State) (hb : s.fb.toNat < 257) (hi : s.fidx.toNat < 48) :
    finRound cfg s = .next (emitByte cfg ⟨s.fidx.toNat, hi⟩ (mixRound cfg ⟨s.fb.toNat, hb⟩ s)) := by
  simp only [finRound, rowIndex?_eq_some hb, selectorIndex?_eq_some hi]

/-- If a finalization round answers a next state, its indices were in range and it is that state. -/
theorem finRound_next {cfg : Config} {s t : State} (h : finRound cfg s = .next t) :
    ∃ n i, rowIndex? s.fb = some n ∧ selectorIndex? s.fidx = some i ∧
      t = emitByte cfg i (mixRound cfg n s) := by
  unfold finRound at h
  split at h
  · cases h
  · rename_i n hn
    split at h
    · cases h
    · rename_i i hi
      exact ⟨n, i, hn, hi, (Host.Outcome.next.inj h).symm⟩

/-- RESET always answers the reset values. -/
theorem execReset_eq (s : State) : execReset s = .next (commandReset Config.machine s) := rfl

/-- What CONSUME can do (41_update.md R120). -/
theorem execConsume_cases (b : Byte) (s : State) :
    (s.fin = true ∧ execConsume b s = .next (raise .invalidState s)) ∨
    (s.fin = false ∧ execConsume b s = .next (mixRound Config.machine (rowOfByte b) s)) := by
  cases h : s.fin <;> simp [execConsume, runConsume, h]

/-- What DIGEST can do (42_finalize.md R130). -/
theorem execDigest_cases (s : State) :
    (s.fin = true ∧ execDigest s = .next (raise .invalidState s)) ∨
    (s.fin = false ∧ execDigest s = .next (startFinalization s)) := by
  cases h : s.fin <;> simp [execDigest, h]

/-- What a command can do: the failure of a finished instance, or its own effect. -/
theorem exec_cases (i : Instr) (s : State) :
    (i = .reset ∧ exec i s = .next (commandReset Config.machine s)) ∨
    (i ≠ .reset ∧ s.fin = true ∧ exec i s = .next (raise .invalidState s)) ∨
    (∃ b, i = .consume b ∧ s.fin = false ∧ exec i s = .next (mixRound Config.machine (rowOfByte b) s)) ∨
    (i = .digest ∧ s.fin = false ∧ exec i s = .next (startFinalization s)) := by
  cases i with
  | reset => exact .inl ⟨rfl, rfl⟩
  | consume b =>
    rcases execConsume_cases b s with ⟨h, e⟩ | ⟨h, e⟩
    · exact .inr (.inl ⟨by simp, h, e⟩)
    · exact .inr (.inr (.inl ⟨b, rfl, h, e⟩))
  | digest =>
    rcases execDigest_cases s with ⟨h, e⟩ | ⟨h, e⟩
    · exact .inr (.inl ⟨by simp, h, e⟩)
    · exact .inr (.inr (.inr ⟨rfl, h, e⟩))

/-- Raising an error writes the error field only (60_exceptions.md R172). -/
theorem raise_eq (e : ErrorKind) (s : State) :
    raise e s = { s with err := if s.err = 0 then errorCode e else s.err } := by
  unfold raise
  split <;> rfl

/-- An error keeps the code that was recorded first (60_exceptions.md R172). -/
theorem raise_of_err_ne {e : ErrorKind} {s : State} (h : s.err ≠ 0) : raise e s = s := if_neg h

theorem raise_of_err_eq {e : ErrorKind} {s : State} (h : s.err = 0) :
    raise e s = { s with err := errorCode e } := if_pos h

end Sys2Proof.Machine
end

