-- ==== Sys2Proof/Laws/PerInstr.lean ====
section
/-! SUPPORT. Statements about every command, one lemma for each constructor. -/

namespace Sys2Proof.Laws

/-- The word a command encodes to lies in its own row of the opcode table and is well-formed
(30_encoding.md R86). -/
def RowMatch.Statement (i : Instr) : Prop :=
  i.wellFormed = true ∧ encode i &&& encodingMask i = encodingMatch i

theorem RowMatch.reset : RowMatch.Statement .reset := ⟨rfl, by decide⟩

theorem RowMatch.consume (b : Byte) : RowMatch.Statement (.consume b) := by
  refine ⟨rfl, ?_⟩
  revert b
  decide

theorem RowMatch.digest : RowMatch.Statement .digest := ⟨rfl, by decide⟩

end Sys2Proof.Laws
end

