-- ==== Sys2Proof/Laws/Platform.lean ====
section
/-! SUPPORT. Which instance an address reaches, said once. -/

namespace Sys2Proof.Machine

open Sys2Proof.Safety

theorem inWindow_iff (k addr : Nat) : inWindow k addr = true ↔ WindowHolds k addr := by
  simp [inWindow]

/-- The instance of the lowest number whose window holds the address is reached (log 10). -/
theorem instanceAt?_eq_some {k addr : Nat} (hk : k < Config.nInstances) (hw : WindowHolds k addr)
    (hl : ∀ j, j < k → ¬ WindowHolds j addr) : instanceAt? addr = some k := by
  unfold instanceAt?
  rw [List.find?_range_eq_some]
  exact ⟨(inWindow_iff k addr).mpr hw, List.mem_range.mpr hk, fun j hj => by
    simpa only [Bool.not_eq_true', ← Bool.not_eq_true, inWindow_iff] using hl j hj⟩

/-- No instance is reached exactly when no window holds the address. -/
theorem instanceAt?_eq_none_iff (addr : Nat) :
    instanceAt? addr = none ↔ ∀ j, j < Config.nInstances → ¬ WindowHolds j addr := by
  simp only [instanceAt?, List.find?_eq_none, List.mem_range, inWindow_iff]

end Sys2Proof.Machine
end

