-- ==== Sys2Proof/Laws/Step.lean ====
section
/-! SUPPORT. What a transaction and a step can do, said once: later proofs take one of these cases
instead of unfolding the step. -/

namespace Sys2Proof.Machine

open Sys2Proof.Safety

/-- Everything that presenting a transaction can answer (20_memory.md R62, 60_exceptions.md R175). -/
inductive PresentCase (t : HostAccess) (s : State) : Host.Outcome State Fault Refusal → Prop
  | accessError (h : target? t = none) :
      PresentCase t s (.next (raise .access (respond (.accessError t.kind) s)))
  | held (g : Target) (h : target? t = some g) (hm : s.mode = .finalizing)
      (hh : g.heldWhileBusy = true) : PresentCase t s (.next { s with port := some t })
  | read (r : Reg) (h : target? t = some (.register r))
      (hm : s.mode = .idle ∨ (Target.register r).heldWhileBusy = false) :
      PresentCase t s (.next (respond (.readOk (readRegister Config.machine r s)) s))
  | illegalWord (v : Word) (why : IllegalWord) (h : target? t = some (.command v)) (hm : s.mode = .idle)
      (hd : decode v = .illegal why) : PresentCase t s (.next (raise .illegalCmd (respond .writeOk s)))
  | command (v : Word) (i : Instr) (h : target? t = some (.command v)) (hm : s.mode = .idle)
      (hd : decode v = .instr i) : PresentCase t s (exec i (respond .writeOk s))

theorem present_cases (t : HostAccess) (s : State) : PresentCase t s (present t s) := by
  unfold present
  split
  next h => exact .accessError h
  next g h =>
    split
    next hh => exact .held g h hh.1 hh.2
    next hh =>
      have hm : s.mode = .idle ∨ g.heldWhileBusy = false := by
        cases hs : s.mode
        · exact .inl rfl
        · exact .inr (by simpa [hs] using hh)
      cases g with
      | register r => exact .read r h hm
      | command v =>
        have hm : s.mode = .idle := hm.resolve_right (by simp [Target.heldWhileBusy])
        cases hd : decode v with
        | instr i =>
          simp only [complete, executeCommand, hd]
          exact .command v i h hm hd
        | illegal why =>
          simp only [complete, executeCommand, hd]
          exact .illegalWord v why h hm hd

/-- Everything that a step in which the host issues nothing new can answer. -/
theorem advance_cases (s : State) :
    (s.mode = .finalizing ∧ advance s = finRound Config.machine s) ∨
    (∃ t, s.mode = .idle ∧ s.port = some t ∧ advance s = present t { s with port := none }) ∨
    (s.mode = .idle ∧ s.port = none ∧ advance s = .next s) := by
  unfold advance
  cases hm : s.mode with
  | finalizing => exact .inl ⟨rfl, rfl⟩
  | idle =>
    cases hp : s.port with
    | some t => exact .inr (.inl ⟨t, rfl, rfl, rfl⟩)
    | none => exact .inr (.inr ⟨rfl, rfl, rfl⟩)

/-- What is left of the host's events after a step. -/
def hostAfter (s : State) : List HostEvent :=
  match s.host, s.port with
  | [], _ => []
  | .reset :: rest, _ => rest
  | .quiet :: rest, _ => rest
  | .issue _ :: rest, none => rest
  | .issue t :: rest, some _ => .issue t :: rest
  | .poll true :: rest, none => .poll false :: rest
  | .poll false :: rest, none => if busy s then .poll true :: rest else rest
  | .poll sent :: rest, some _ => .poll sent :: rest

/-- Everything that a step can be (00_scope.md R13, 60_exceptions.md R176): the hardware reset, a round of
the engine, a transaction presented, one read of a poll, or a wait. -/
inductive StepCase (s : State) : Host.Outcome State Fault Refusal → Prop
  | reset (h : resets s = true) :
      StepCase s (.next (hardwareReset Config.machine { s with host := hostAfter s }))
  | engine (hr : resets s = false) (hm : s.mode = .finalizing) (he : engineMoves s = true) :
      StepCase s (finRound Config.machine { s with host := hostAfter s })
  | access (t : HostAccess) (hr : resets s = false) (he : engineMoves s = false)
      (hf : s.mode = .finalizing → s.port = none ∧ ∃ rest, s.host = .issue t :: rest)
      (ha : s.mode = .idle → acceptedAccess s = some t) :
      StepCase s (present t { s with host := hostAfter s, port := none })
  | poll (rest : List HostEvent) (h : s.host = .poll false :: rest) (hp : s.port = none)
      (he : engineMoves s = false) (hh : hostAfter s = if busy s then .poll true :: rest else rest) :
      StepCase s (.next (pollStatus rest s))
  | wait (hr : resets s = false) (hm : s.mode = .idle) (hp : s.port = none) :
      StepCase s (.next { s with host := hostAfter s })

theorem step_cases (s : State) : StepCase s (step s) := by
  obtain ⟨words, rnd, fin, mode, fidx, fb, ob, dvalid, err, port, host, resp, draws⟩ := s
  rcases host with _ | ⟨⟨t⟩ | _ | ⟨_ | _⟩ | _, rest⟩ <;> rcases mode with _ | _ <;> rcases port with _ | a
  all_goals first
    | exact StepCase.reset rfl
    | exact StepCase.engine rfl rfl rfl
    | exact StepCase.wait rfl rfl rfl
    | exact StepCase.poll _ rfl rfl rfl rfl
    | exact StepCase.access _ rfl rfl (fun h => nomatch h) (fun _ => rfl)
    | exact StepCase.access _ rfl rfl (fun _ => ⟨rfl, _, rfl⟩) (fun h => nomatch h)

/-- While the engine moves, the step is its round. -/
theorem step_of_engineMoves {s : State} (he : engineMoves s = true) :
    step s = finRound Config.machine { s with host := hostAfter s } := by
  obtain ⟨words, rnd, fin, mode, fidx, fb, ob, dvalid, err, port, host, resp, draws⟩ := s
  rcases host with _ | ⟨⟨t⟩ | _ | ⟨_ | _⟩ | _, rest⟩ <;> rcases mode with _ | _ <;> rcases port with _ | a
  all_goals first
    | rfl
    | exact absurd he (by simp [engineMoves])

/-- A transaction issued to a free port is presented in that step. -/
theorem step_of_issue {s : State} {t : HostAccess} {rest : List HostEvent} (hp : s.port = none)
    (hh : s.host = .issue t :: rest) : step s = present t { s with host := rest } := by
  simp only [step, stepInstance, hh, hp]

/-- A CMD write delivers its word. -/
@[simp] theorem target?_cmdWrite (v : Word) : target? (HostAccess.cmdWrite v) = some (.command v) := rfl

/-- A read at a register's offset reads that register. -/
@[simp] theorem target?_readAt_offset (r : Reg) : target? (HostAccess.readAt r.offset) = some (.register r) := by
  cases r with
  | word i => revert i; decide
  | dout j => revert j; decide
  | _ => decide

/-- The register that an offset names is the one that stands there. -/
theorem registerAt?_eq_some_iff (r : Reg) (off : Nat) : registerAt? off = some r ↔ off = r.offset := by
  constructor
  · intro h
    exact (eq_of_beq (List.find?_some (p := fun q : Reg => q.offset == off) h)).symm
  · rintro rfl
    cases r with
    | word i => revert i; decide
    | dout j => revert j; decide
    | _ => decide

/-- The test of an illegal access, as a proposition. -/
theorem illegalAccess_iff (t : HostAccess) : illegalAccess t = true ↔ IllegalHostAccess t := by
  simp only [illegalAccess, IllegalHostAccess, Bool.or_eq_true, Bool.and_eq_true, decide_eq_true_eq,
    or_assoc]

/-- A run whose first step answers a next state goes on from there. -/
theorem run_succ_of_next (M : Host.Core) (k : Nat) (s t : M.State) (h : M.step s = .next t) :
    M.run (k + 1) s = M.run k t := by
  simp only [Host.Core.run, h]

/-- A command executed in a step is the one that the step accepts. -/
theorem acceptedCommand_of_access {s : State} {t : HostAccess} {v : Word} {i : Instr}
    (ha : acceptedAccess s = some t) (ht : target? t = some (.command v)) (hd : decode v = .instr i) :
    acceptedCommand s = some i := by
  simp [acceptedCommand, ha, ht, hd]

end Sys2Proof.Machine
end

