-- ==== Sys2Proof/Tests/Toy.lean ====
section
/-! SUPPORT. The TOY configuration of 95_test_vectors.md §2.0. It is not the MHash-384 table set. -/

namespace Sys2Proof.Tests

open Sys2Proof.Machine

/-- The TOY configuration, by the formulas of 95_test_vectors.md §2.0. -/
def toy (lock : Bool) : Config where
  tables :=
    { initVector := fun i => 0x1111111111111111 * BitVec.ofNat 64 (i.val + 1)
      xorRows := fun n i => 0x9E3779B97F4A7C15 * BitVec.ofNat 64 (6 * n.val + i.val + 1)
      addRows := fun n i => 0xC2B2AE3D27D4EB4F * BitVec.ofNat 64 (6 * n.val + i.val + 1)
      permRows := fun r i => Fin.ofNat 6 (i.val + r.val)
      finalSelector := fun i => Fin.ofNat 48 (7 * i.val) }
  mixK := Config.sourceMixK
  mixK_odd := by decide
  version := { major := 0, minor := 0, patch := 0 }
  lockOnDigest := lock

/-- The next state of an outcome, or `d` when it is none. -/
def nextOf (o : Host.Outcome State Fault Refusal) (d : State) : State :=
  match o with
  | .next t => t
  | .fault _ => d
  | .refused _ => d

end Sys2Proof.Tests
end

