-- ==== Sys2Proof/Tests/Slice0.lean ====
section
/-! SUPPORT. Tests on fixed values. The expected values are those of spec/95_test_vectors.md and of the
rules' own examples, not the model's answers; each test names its source. The witnesses at the end
show that the hypotheses of the statements can be met. -/

namespace Sys2Proof.Tests

open Sys2Proof.Machine Sys2Proof.Safety

/-! ## Decoding (95 §2.6 X1 to X8; 30_encoding.md R86) -/

theorem test_decode_reset : decode 0b0000000000000000000000000000000000000000000000000000000100000000 =
    .instr .reset := by decide

theorem test_decode_consume_0x61 :
    decode 0b0000000000000000000000000000000000000000000000000000001001100001 =
    .instr (.consume 0x61) := by decide

theorem test_decode_digest : decode 0b0000000000000000000000000000000000000000000000000000001100000000 =
    .instr .digest := by decide

theorem test_decode_zero_is_illegal : decode 0x0000000000000000 = .illegal .unknownOpcode := by decide

theorem test_decode_reserved_bits : decode 0x0000000000010261 = .illegal .reservedBits := by decide

theorem test_decode_reset_operand : decode 0x0000000000000101 = .illegal .operandNotZero := by decide

theorem test_decode_digest_operand : decode 0x0000000000000301 = .illegal .operandNotZero := by decide

theorem test_table_word_consume : decodeTableWord 64 0x02FF = some (.consume 0xFF) := by decide

theorem test_table_word_illegal : decodeTableWord 64 0x8000000000000100 = none := by decide

/-! ## The mixing engine -/

/-- 95 §2.1 M2. -/
theorem test_mix64_M2 : mix64 Config.sourceMixK 1 0 = 0xF4FF80EC63C103D4 := by decide

/-- 95 §2.1 M8. -/
theorem test_mix64_M8 : mix64 Config.sourceMixK 0x0123456789ABCDEF 0xFEDCBA9876543210 =
    0x667ED044B87DB1D5 := by decide

/-- The words of T1 to T5. -/
def toyWords : Vector Word 6 := Vector.ofFn (toy false).tables.initVector

/-- 95 §2.2 T2: lane 5 reads the old `W[0]`. -/
theorem test_transition_T2 :
    transition Config.sourceMixK toyWords (fun _ => 0) (fun _ => 0) (fun i => Fin.ofNat 6 (i.val + 1)) =
      #v[0x862D88FBB935AE45, 0x69C38595F28650D2, 0x519FA1DA31AFCBB5, 0x5904016E8CCAA1F1,
        0xED1767D37C9D00A4, 0x5F4FCCDCF09C03D2] := by decide

/-- 95 §2.2 T5: a wrapping addition and an XOR row. -/
theorem test_transition_T5 :
    transition Config.sourceMixK toyWords (fun _ => 0xFFFFFFFFFFFFFFFF)
        (fun i => if i = 0 then 0xFFFFFFFFFFFFFFFF else if i = 1 then 1 else 0) (fun i => i) =
      #v[0x7AC79C0635A47957, 0x2BDF5507370E8ADC, 0x1D478D95C0F53440, 0xB271EC6F33101508,
        0x410697F6A182F0F0, 0x9CAF312296B23B18] := by decide

/-- 42_finalize.md R131, its example. -/
theorem test_extractByte_high_of_word0 :
    extractByte #v[0x7E863FBF250FB966, 0, 0, 0, 0, 0] 7 = 0x7E := by decide

/-- 20_memory.md R56: byte 8 is the low byte of `W[1]`. -/
theorem test_extractByte_low_of_word1 :
    extractByte #v[0, 0x1122334455667788, 0, 0, 0, 0] 8 = 0x88 := by decide

/-! ## CONSUME, DIGEST and RESET under TOY -/

/-- 95 §2.3 U1. -/
theorem test_consume_U1 :
    (nextOf (runConsume (toy false) 0x61 (State.resetOf (toy false))) State.reset).words =
      #v[0xA493BFFDD993AD9C, 0x2AFE644AFFFB0CBE, 0x4293E36A79DEB267, 0x0B5D3D593C577B8B,
        0xF8768FD5E5FD95FF, 0x4DDB989D9768028D] := by decide

/-- 95 §2.6 X10: on a finished instance ERR becomes 2 and RND stays. -/
theorem test_consume_X10 :
    let t := nextOf (runConsume (toy true) 0x61 { State.resetOf (toy true) with fin := true, rnd := 48 })
      State.reset
    t.err = 2 ∧ t.rnd = 48 := by decide

/-- The state of 95 §2.3 U4, after "abc". -/
def afterAbc : State :=
  { State.resetOf (toy false) with
    rnd := 3
    words := #v[0x0418C3456E825E37, 0x89B14339845ACEEA, 0x8B474A4353188FD2, 0x9CDF2FC5A6B35B7C,
      0x53B7D5C44C679E41, 0xC2B01A3398CBA778] }

/-- 95 §2.4 F3, round 0: the sentinel row, permutation row 3, selector 0. -/
theorem test_finRound_F3_round0 :
    let t := nextOf (finRound (toy false) (startFinalization afterAbc)) State.reset
    t.words = #v[0x1B3FDA996E9F0CF5, 0x7649602302CD8E45, 0x5DE6C585F154D278, 0x7DE73E3B7BA92EB4,
        0x0C5C054D970260D7, 0x909C21290118C08B] ∧ t.ob[0] = 0xF5 ∧ t.fb = 0xF5 ∧ t.fidx = 1 := by decide

/-- 95 §2.4 F3, round 2: row 0x7E, permutation row 5, selector 14 (byte 6 of `W[1]`). -/
theorem test_finRound_F3_round2 :
    let s := { startFinalization afterAbc with
      rnd := 5, fidx := 2, fb := 0x7E
      words := #v[0x7E863FBF250FB966, 0x5074D6B66AF47335, 0xFC0FB61C4441624A, 0x9D404D518F4D22AA,
        0xF028F8D06CB17AC0, 0xEF06096D7802BBD6] }
    let t := nextOf (finRound (toy false) s) State.reset
    t.words[1] = 0x1E69529F4880B66B ∧ t.ob[2] = 0x69 := by decide

/-- 95 §2.4 F5: the last round under LOCK_ON_DIGEST; STATUS reads 0x0E. -/
theorem test_finRound_last_F5 :
    let t := nextOf (finRound (toy true)
      { startFinalization (State.resetOf (toy true)) with fidx := 47, fb := 0 }) State.reset
    t.mode = .idle ∧ t.fb = 256 ∧ statusWord (toy true) t = 0x0E := by decide

/-- 95 §2.5 C2: RESET leaves only LOCK in STATUS. -/
theorem test_reset_C2 :
    let t := nextOf (runReset (toy true)
      { State.resetOf (toy true) with fin := true, err := 2, dvalid := true, rnd := 48 }) State.reset
    statusWord (toy true) t = 0x08 ∧ t.words[0] = 0x1111111111111111 ∧ t.rnd = 0 := by decide

/-- 95 §2.4 F1: DOUT0 packs the first eight bytes little-endian. -/
theorem test_dout_F1 :
    doutWord ((#v[0xA5, 0xB7, 0x74, 0xE2, 0xBD, 0x99, 0xE1, 0xAB] : Vector Byte 8) ++
      (Vector.replicate 40 0 : Vector Byte 40)) 0 =
      0xABE199BDE274B7A5 := by decide

/-! ## The port (95 §2.6) -/

/-- One access to the reset machine, and what it answers. -/
def accessOf (s : State) (t : HostAccess) : State :=
  nextOf (step { s with host := [.issue t] }) s

/-- The state after DIGEST from reset. -/
def busyState : State := startFinalization State.reset

/-- X12. -/
theorem test_port_X12 :
    let t := accessOf State.reset { kind := .write, offset := 0x08, width := 8, data := 0 }
    t.err = 3 ∧ t.resp = some { ok := false, data := none } := by decide

/-- X14. -/
theorem test_port_X14 :
    let t := accessOf State.reset { kind := .read, offset := 0x0C, width := 4, data := 0 }
    t.err = 3 ∧ t.resp = some { ok := false, data := some 0 } := by decide

/-- X16: an illegal access is answered at once. -/
theorem test_port_X16 :
    let t := accessOf busyState { kind := .read, offset := 0x09, width := 8, data := 0 }
    t.err = 3 ∧ t.port = none := by decide

/-- X17: a read of WORD0 while FINALIZING is held. -/
theorem test_port_X17 :
    let t := accessOf busyState (HostAccess.readAt 0x20)
    t.port = some (HostAccess.readAt 0x20) ∧ t.resp = none := by decide

/-- X18, with LOCK false: STATUS while FINALIZING. -/
theorem test_status_X18 : statusWord (toy false) busyState = 0x01 := by decide

/-- X9: an ILLEGAL word wins over the FIN check. -/
theorem test_port_X9 :
    (accessOf { State.reset with fin := true } (HostAccess.cmdWrite 0x301)).err = 1 := by decide

/-- The first instruction after reset. -/
theorem test_fetch_consume : (nextOf (step (State.reset.withFetchWord 64 0x261)) State.reset).rnd = 1 := by
  decide

/-! ## The assembler (30_encoding.md R87 to R92) -/

theorem test_line_consume : parseLine "CONSUME 'a' ; one byte".toList =
    some (some (.consume (.chr 'a'))) := by decide

theorem test_line_raw : parseLine "RAW read 0x04, 4".toList =
    some (some (.raw .read 0x04 4 0)) := by decide

theorem test_line_feed_comma : parseLine "FEED ',', ';', 0x2C".toList =
    some (some (.feed [.chr ',', .chr ';', .num 0x2C])) := by decide

theorem test_line_wr : parseLine "WR CMD, 0x0000000000010261".toList = some (some (.wr 0x10261)) := by
  decide

/-- 95 §3 P1, steps 1 to 4. -/
theorem test_assemble_P1 :
    assembleText ["RESET".toList, "FEEDSTR \"ab\"".toList, "".toList, "RD DOUT5".toList] =
      some [.issue (HostAccess.cmdWrite 0x100), .issue (HostAccess.cmdWrite 0x261),
        .issue (HostAccess.cmdWrite 0x262), .issue (HostAccess.readAt 0x78)] := by decide

/-- The Euro sign is E2 82 AC in UTF-8 (general knowledge, log 18). -/
theorem test_utf8_euro : utf8Bytes '€' = [0xE2, 0x82, 0xAC] := by decide

/-! ## Smoke tests of the checks: one ill-formed term each -/

theorem test_wf_instr : (Instr.consume 0xFF).wellFormed = true := by decide

theorem test_wf_byte_too_big : (Stmt.consume (.num 256)).wellFormed = false := by decide

theorem test_wf_byte_not_printable : (Stmt.consume (.chr '\n')).wellFormed = false := by decide

theorem test_wf_wr_too_wide : (Stmt.wr (2 ^ 64)).wellFormed = false := by decide

/-- RAW takes any offset (30_encoding.md R87), and R62's pseudocode answers ERR_ACCESS from 0x80 on. -/
theorem test_raw_any_offset :
    (Stmt.raw .read 0x108 8 0).expand = [.issue (HostAccess.readAt 0x108)] ∧
      (Stmt.raw .read 0x108 8 0).wellFormed = true ∧
      (accessOf State.reset (HostAccess.readAt 0x108)).err = 3 := by decide

theorem test_wf_raw_data_too_wide : (Stmt.raw .write 0 8 (2 ^ 64)).wellFormed = false := by decide

theorem test_wf_feed_too_big : (Stmt.feed [.num 0, .num 256]).wellFormed = false := by decide

theorem test_wf_hash_too_big : (Stmt.hash [.num 256]).wellFormed = false := by decide

/-- A table set of the right shapes, all entries zero. -/
def zeroTables : RawConfig where
  initVector := List.replicate 6 0
  xorRows := List.replicate 257 (List.replicate 6 0)
  addRows := List.replicate 257 (List.replicate 6 0)
  permRows := List.replicate 256 (List.replicate 6 0)
  finalSelector := List.replicate 48 0
  mixK := Config.sourceMixK
  version := { major := 2, minor := 0, patch := 0 }
  lockOnDigest := false

set_option maxRecDepth 8000 in
theorem test_wf_zeroTables : zeroTables.wellFormed = true := by decide

theorem test_wf_initVector_short : { zeroTables with initVector := [0, 0, 0, 0, 0] }.initVectorOk = false := by
  decide

set_option maxRecDepth 8000 in
theorem test_wf_xorRows_256 : RawConfig.rowsOk (List.replicate 256 (List.replicate 6 0)) = false := by decide

set_option maxRecDepth 8000 in
theorem test_wf_addRows_rowShort : RawConfig.rowsOk ([0] :: List.replicate 256 (List.replicate 6 0)) = false := by
  decide

set_option maxRecDepth 8000 in
theorem test_wf_permRows_six :
    { zeroTables with permRows := [0, 1, 2, 3, 4, 6] :: List.replicate 255 (List.replicate 6 0) }.permRowsOk =
      false := by decide

theorem test_wf_selector_48 :
    { zeroTables with finalSelector := 48 :: List.replicate 47 0 }.selectorOk = false := by decide

theorem test_wf_mixK_even : { zeroTables with mixK := 2 }.mixKOk = false := by decide

/-! ## Witnesses: states that meet the hypotheses of the statements -/

/-- A reset machine whose host issues one access. -/
def withIssue (s : State) (t : HostAccess) : State := { s with host := [.issue t] }

theorem witness_DecodeAndEncodeAgree : (Instr.consume 0xFF).wellFormed = true ∧
    decode 0x2FF = .instr (.consume 0xFF) := by decide

theorem witness_StepRunsTheDecodedCommand :
    let s := withIssue State.reset (HostAccess.cmdWrite 0x300)
    s.mode = .idle ∧ s.port = none ∧ s.host = .issue (HostAccess.cmdWrite 0x300) :: [] ∧
      decode 0x300 = .instr .digest ∧ Instr.digest.wellFormed = true := by decide

theorem witness_StepRunsTheDecodedCommand_held :
    let s := { State.reset with port := some (HostAccess.cmdWrite 0x2FF) }
    s.mode = .idle ∧ s.port = some (HostAccess.cmdWrite 0x2FF) ∧ s.host = [] ∧
      decode 0x2FF = .instr (.consume 0xFF) ∧ (Instr.consume 0xFF).wellFormed = true := by decide

theorem witness_IllegalWordOnlyRaises_idle :
    let s := withIssue State.reset (HostAccess.cmdWrite 0x10000)
    s.port = none ∧ s.host = .issue (HostAccess.cmdWrite 0x10000) :: [] ∧
      IllegalCommandWord 0x10000 ∧ s.mode = .idle := by decide

theorem witness_IllegalWordOnlyRaises_finalizing :
    let s := withIssue busyState (HostAccess.cmdWrite 0x101)
    s.port = none ∧ s.host = .issue (HostAccess.cmdWrite 0x101) :: [] ∧
      IllegalCommandWord 0x101 ∧ s.mode = .finalizing := by decide

theorem witness_ConsumeCompletes : State.reset.fin = false := by decide

theorem witness_DigestCompletes : State.reset.fin = false := by decide

theorem witness_FinishedInstanceRejectsConsumeAndDigest : { State.reset with fin := true }.fin = true := by
  decide

theorem witness_Mix64CornerCases : (fun i : Fin 6 => i) 5 = 5 ∧ (fun _ : Fin 6 => (0 : Word)) 5 = 0 := by
  decide

theorem witness_MixRoundWritesWordsAndRoundOnly : { State.reset with rnd := 255 }.rnd = 255 := by decide

theorem witness_ExtractByteIsLittleEndian :
    (47 : Fin 48).val = 8 * (5 : Fin 6).val + (7 : Fin 8).val := by decide

theorem witness_FinalizationRoundCompletes_first :
    busyState.fidx.toNat < 48 ∧ busyState.fb.toNat < 257 ∧ engineMoves busyState = true ∧
      busyState.fidx ≠ 47 := by decide

theorem witness_FinalizationRoundCompletes_last :
    let s := { busyState with fidx := 47, fb := 0xFF }
    s.fidx.toNat < 48 ∧ s.fb.toNat < 257 ∧ engineMoves s = true ∧ s.fidx = 47 := by decide

theorem witness_EveryRoundUsesItsRows : AtFirstRound busyState ∧ 47 < 48 := by decide

theorem witness_SequencedDigestEqualsSourceDigest : State.reset.fin = false := by decide

theorem witness_DigestIsTheSameUnderEverySchedule :
    let s := { busyState with host := [.issue (HostAccess.readAt 0x08), .quiet, .issue (HostAccess.readAt 0x50)] }
    AtFirstRound s ∧ noReset s.host = true := by decide

theorem witness_HoldAlwaysEnds :
    let s := { busyState with fidx := 47, fb := 0xFF, host := [.poll false] }
    MachineInv s ∧ noReset s.host = true := by decide

theorem witness_HostSeesNothingOfTheRunningSequence :
    ∃ s t s' t', s ≠ t ∧ s.mode = .finalizing ∧ SameButDigest s t ∧ step s = .next s' ∧
      step t = .next t' :=
  ⟨withIssue busyState (HostAccess.readAt 0x08),
    { withIssue busyState (HostAccess.readAt 0x08) with rnd := 7 }, _, _,
    fun h => absurd (congrArg State.rnd h) (by decide), rfl,
    ⟨rfl, rfl, rfl, rfl, rfl, rfl, rfl, rfl, rfl⟩, rfl, rfl⟩

theorem witness_HashComputesTheSourceDigest :
    let s := { State.reset with host := hashEvents [0x61, 0x62, 0x63], fin := true }
    s.mode = .idle ∧ s.port = none ∧ s.host = hashEvents [0x61, 0x62, 0x63] := by decide

theorem witness_ResetCommandEqualsHardwareReset :
    ∃ s r t : State, s.mode = .idle ∧ exec .reset s = .next t ∧ r.host = .reset :: [] :=
  ⟨{ State.reset with err := 3 }, { busyState with host := [.reset] }, _, rfl, rfl, rfl⟩

/-- Each clause of `HostAccessFollowsItsRule`, at the edges of its range. -/
theorem witness_HostAccessFollowsItsRule :
    IllegalHostAccess (HostAccess.readAt 0x80) ∧
    (¬ IllegalHostAccess (HostAccess.readAt 0x78) ∧ MustWait busyState (HostAccess.readAt 0x78)) ∧
    (¬ IllegalHostAccess (HostAccess.readAt 0x10) ∧ ¬ MustWait busyState (HostAccess.readAt 0x10) ∧
      (HostAccess.readAt 0x10).kind = .read) ∧
    (¬ IllegalHostAccess (HostAccess.cmdWrite 0x100) ∧ ¬ MustWait State.reset (HostAccess.cmdWrite 0x100) ∧
      (HostAccess.cmdWrite 0x100).kind = .write) ∧
    (withIssue busyState (HostAccess.readAt 0x78)).port = none := by decide

theorem witness_StatusShowsTheFlags :
    let s := withIssue busyState (HostAccess.readAt 0x08)
    s.port = none ∧ s.host = .issue (HostAccess.readAt 0x08) :: [] := by decide

theorem witness_VersionShowsTheTriple :
    let s := withIssue busyState (HostAccess.readAt 0x10)
    s.port = none ∧ s.host = .issue (HostAccess.readAt 0x10) :: [] := by decide

theorem witness_RoundShowsTheCounter :
    let s := withIssue State.reset (HostAccess.readAt 0x18)
    let b := withIssue busyState (HostAccess.readAt 0x18)
    (s.port = none ∧ s.host = .issue (HostAccess.readAt 0x18) :: [] ∧ s.mode = .idle) ∧
      (b.port = none ∧ b.host = .issue (HostAccess.readAt 0x18) :: [] ∧ b.mode = .finalizing) := by decide

theorem witness_WordRegistersShowTheState :
    let a := HostAccess.readAt (0x20 + 8 * (5 : Fin 6).val)
    ((withIssue State.reset a).port = none ∧ (withIssue State.reset a).host = .issue a :: [] ∧
      (withIssue State.reset a).mode = .idle) ∧
    (withIssue busyState a).mode = .finalizing := by decide

theorem witness_DoutRegistersPackTheDigest :
    let a := HostAccess.readAt (0x50 + 8 * (5 : Fin 6).val)
    ((withIssue State.reset a).port = none ∧ (withIssue State.reset a).host = .issue a :: [] ∧
      (withIssue State.reset a).mode = .idle) ∧
    (withIssue busyState a).mode = .finalizing := by decide

theorem witness_HeldAccessProceedsAsIfIssuedAfterwards :
    let a := HostAccess.readAt 0x50
    let s := { State.reset with port := some a }
    let q := { State.reset with port := some a, host := [.quiet] }
    let b := { busyState with port := some a }
    (s.port = some a ∧ resets s = false ∧ s.mode = .idle ∧ s.host = []) ∧
      (q.port = some a ∧ resets q = false ∧ q.mode = .idle ∧ q.host = .quiet :: []) ∧
      (b.port = some a ∧ resets b = false ∧ b.mode = .finalizing) := by decide

theorem witness_WaitReadsStatusUntilNotBusy :
    let s := { State.reset with host := [.poll false] }
    let b := { busyState with host := [.poll false] }
    let c := { busyState with host := [.poll true] }
    (s.port = none ∧ s.host = .poll false :: [] ∧ s.mode = .idle) ∧
      (b.port = none ∧ b.host = .poll false :: [] ∧ b.mode = .finalizing) ∧
      (c.port = none ∧ c.host = .poll true :: []) := by decide

theorem witness_IdleBlockWaits :
    State.reset.mode = .idle ∧ State.reset.port = none ∧ State.reset.host = [] := by decide

theorem witness_BothResetsWriteTheResetValues :
    { busyState with host := [.reset] }.host = .reset :: [] ∧ { State.reset with err := 3 }.mode = .idle := by
  decide

theorem witness_HardwareResetOverridesEverything :
    let s := { busyState with host := [.reset] }
    let h := { busyState with host := [.reset], port := some (HostAccess.readAt 0x50) }
    (s.host = .reset :: [] ∧ s.port = none) ∧ (h.host = .reset :: [] ∧ h.port.isSome = true) := by decide

theorem witness_EveryStepKeepsTheInvariant : ∃ s t, MachineInv s ∧ step s = .next t :=
  ⟨busyState, _, by decide, rfl⟩

theorem witness_TheMachineNeverStops : MachineInv { busyState with fidx := 47, fb := 0xFF } := by decide

theorem witness_ReachableStatesMeetTheStatedInvariants :
    ∃ t : State, Sys2Proof.core.run 2 { State.reset with
      host := [.issue (HostAccess.cmdWrite 0x300), .quiet] } = .next t ∧ t.mode = .finalizing :=
  ⟨_, rfl, rfl⟩

/-- One witness for the whole-machine rules: a step that is no reset, from a state with an error. -/
theorem witness_WholeMachineRules :
    ∃ s t, step s = .next t ∧ ¬ writesResetValues s ∧ s.err ≠ 0 ∧
      ¬ (engineMoves s = true ∧ s.fidx.toNat = (47 : Fin 48).val) :=
  ⟨{ withIssue State.reset (HostAccess.cmdWrite 0x2FF) with err := 2 }, _, rfl, by decide, by decide,
    by decide⟩

set_option maxRecDepth 8000 in
theorem witness_BootAcceptsExactlyTheCheckedTables :
    (loadConfig zeroTables).isSome = true ∧ (loadConfig { zeroTables with mixK := 2 }).isNone = true := by
  decide

theorem witness_AssemblyErrorNeverReachesTheBlock :
    (AssemblyError (.consume (.num 256)) ∧ AssemblyError (.feed [.num 255, .chr (Char.ofNat 0x7F)]) ∧
      AssemblyError (.hash [.chr (Char.ofNat 0x1F)]) ∧ AssemblyError (.wr (2 ^ 64)) ∧
      AssemblyError (.raw .write 0 8 (2 ^ 64))) ∧
    (¬ AssemblyError (.consume (.num 255)) ∧ ¬ AssemblyError (.feed [.chr ' ', .chr '~']) ∧
      ¬ AssemblyError (.raw .write 0x100 4 (2 ^ 64))) ∧
    parseLine "CONSUME".toList = none ∧
    parseLine "CONSUME 0x100".toList = some (some (.consume (.num 256))) := by
  refine ⟨⟨?_, ?_, ?_, ?_, ?_⟩, ⟨?_, ?_, ?_⟩, by decide, by decide⟩ <;>
    simp [AssemblyError, ByteOutOfRange]

theorem witness_InstancesNeverObserveEachOther :
    ∃ p q r : Platform, (0 : Nat) ≠ 1 ∧ p.stepAt 1 = .next q ∧ p.stepAt 0 = .next r ∧
      p.instances.length = 2 :=
  ⟨{ instances := [busyState, withIssue State.reset (HostAccess.cmdWrite 0x300)] }, _, _, by decide, rfl,
    rfl, rfl⟩

theorem witness_PlatformAccessReachesItsInstanceOnly :
    let a := Config.base 0 + 0xFF
    0 < Config.nInstances ∧ Config.base 0 ≤ a ∧ a < Config.base 0 + 0x100 ∧
      (∀ j, j < 0 → ¬ WindowHolds j a) ∧ Platform.reset.instances[0]? = some State.reset :=
  ⟨Nat.succ_pos _, Nat.le_add_right _ _, Nat.add_lt_add_left (by decide) _,
    fun j h => absurd h (Nat.not_lt_zero j), by simp [Platform.reset, Config.nInstances]⟩

/-- Some address lies in no window. -/
theorem witness_PlatformAccessReachesItsInstanceOnly_outside :
    ∃ a, ∀ j, j < Config.nInstances → ¬ WindowHolds j a := by
  have h : ∀ n, ∃ a, ∀ j, j < n → Config.base j + 0x100 ≤ a := by
    intro n
    induction n with
    | zero => exact ⟨0, fun j h => absurd h (Nat.not_lt_zero j)⟩
    | succ n ih =>
      obtain ⟨a, ha⟩ := ih
      refine ⟨a + Config.base n + 0x100, fun j hj => ?_⟩
      rcases Nat.lt_succ_iff_lt_or_eq.mp hj with h | rfl
      · have := ha j h
        omega
      · omega
  obtain ⟨a, ha⟩ := h Config.nInstances
  exact ⟨a, fun j hj hw => by have := ha j hj; omega⟩

end Sys2Proof.Tests
end

section
/-! The check of a table set and what it loads (00_scope.md R7): each check as a statement on the raw
lists, the entries of the loaded tables, and O46. -/

namespace Sys2Proof

open Sys2Proof.Machine Sys2Proof.Safety

/-! ### Each check of R7 as a statement on the raw lists -/

theorem RawConfig.initVectorOk_iff (r : RawConfig) :
    r.initVectorOk = true ↔ r.initVector.length = 6 := by
  simp [initVectorOk]

theorem RawConfig.rowsOk_iff (rows : List (List Word)) :
    rowsOk rows = true ↔ rows.length = 257 ∧ ∀ row ∈ rows, row.length = 6 := by
  simp [rowsOk]

theorem RawConfig.permRowsOk_iff (r : RawConfig) :
    r.permRowsOk = true ↔
      r.permRows.length = 256 ∧ ∀ row ∈ r.permRows, row.length = 6 ∧ ∀ e ∈ row, e.toNat ≤ 5 := by
  simp [permRowsOk]

theorem RawConfig.selectorOk_iff (r : RawConfig) :
    r.selectorOk = true ↔ r.finalSelector.length = 48 ∧ ∀ e ∈ r.finalSelector, e.toNat ≤ 47 := by
  simp [selectorOk]

theorem RawConfig.mixKOk_iff (r : RawConfig) : r.mixKOk = true ↔ r.mixK.toNat % 2 = 1 := by
  simp [mixKOk, BitVec.getLsbD, Nat.testBit_zero]

theorem RawConfig.wellFormed_iff (r : RawConfig) :
    r.wellFormed = true ↔
      r.initVector.length = 6 ∧
      (r.xorRows.length = 257 ∧ ∀ row ∈ r.xorRows, row.length = 6) ∧
      (r.addRows.length = 257 ∧ ∀ row ∈ r.addRows, row.length = 6) ∧
      (r.permRows.length = 256 ∧ ∀ row ∈ r.permRows, row.length = 6 ∧ ∀ e ∈ row, e.toNat ≤ 5) ∧
      (r.finalSelector.length = 48 ∧ ∀ e ∈ r.finalSelector, e.toNat ≤ 47) ∧
      r.mixK.toNat % 2 = 1 := by
  simp only [wellFormed, Bool.and_eq_true, initVectorOk_iff, rowsOk_iff, permRowsOk_iff,
    selectorOk_iff, mixKOk_iff, and_assoc]

namespace Machine

/-! ### What the load and the boot answer -/

/-- A table set loads exactly when it passes the check. -/
theorem exists_loadConfig_eq_some_iff (r : RawConfig) :
    (∃ cfg, loadConfig r = some cfg) ↔ r.wellFormed = true := by
  unfold loadConfig
  split <;> simp_all

/-- A loaded set passed the check, and its configuration holds its tables and its parameters. -/
theorem loadConfig_eq_some {r : RawConfig} {cfg : Config} (h : loadConfig r = some cfg) :
    r.wellFormed = true ∧ cfg.tables = tablesOf r ∧ cfg.mixK = r.mixK ∧ cfg.version = r.version ∧
      cfg.lockOnDigest = r.lockOnDigest := by
  unfold loadConfig at h
  split at h
  · next hw =>
    cases h
    exact ⟨hw, rfl, rfl, rfl, rfl⟩
  · cases h

theorem boot_of_loadConfig_none {r : RawConfig} (h : loadConfig r = none) :
    boot r = .refused .constantsCorrupt := by
  simp [boot, h]

theorem boot_of_loadConfig_some {r : RawConfig} {cfg : Config} (h : loadConfig r = some cfg) :
    boot r = .next (State.resetOf cfg) := by
  simp [boot, h]

theorem resetOf_hasResetValues (cfg : Config) : HasResetValues cfg (State.resetOf cfg) where
  words i := by simp [State.resetOf]
  rnd := rfl
  fin := rfl
  mode := rfl
  fidx := rfl
  fb := rfl
  ob j := by simp [State.resetOf]
  dvalid := rfl
  err := rfl

/-! ### The entries of the loaded tables are the given ones

`tablesOf` reads with a default and reduces an index modulo its range; in a checked set the default is
never taken and the reduction changes nothing. -/

/-- An entry in range is the entry read, whatever the default. -/
theorem getElem?_eq_some_getD {α : Type} {l : List α} {i : Nat} (hi : i < l.length) (d : α) :
    l[i]? = some (l.getD i d) := by
  rw [List.getElem?_eq_getElem hi, List.getD_eq_getElem l d hi]

/-- An entry in range satisfies what every entry of the list does. -/
theorem forall_mem_getD {α : Type} {p : α → Prop} {l : List α} (hp : ∀ e ∈ l, p e) {i : Nat}
    (hi : i < l.length) (d : α) : p (l.getD i d) := by
  rw [List.getD_eq_getElem l d hi]
  exact hp _ (List.getElem_mem hi)

/-- As `getElem?_eq_some_getD`, for an entry of a table whose rows all have length `width`. -/
theorem bind_getElem?_eq_some_getD {α : Type} {rows : List (List α)} {width n i : Nat}
    (hw : ∀ row ∈ rows, row.length = width) (hn : n < rows.length) (hi : i < width) (d : α) :
    rows[n]?.bind (·[i]?) = some ((rows.getD n []).getD i d) := by
  have hrow : (rows.getD n []).length = width := forall_mem_getD hw hn []
  rw [getElem?_eq_some_getD hn [], Option.bind_some, getElem?_eq_some_getD (hi.trans_eq hrow.symm) d]

theorem tablesOf_initVector {r : RawConfig} (h : r.initVector.length = 6) (i : Fin 6) :
    r.initVector[i.val]? = some ((tablesOf r).initVector i) :=
  getElem?_eq_some_getD (i.isLt.trans_eq h.symm) 0

/-- Shared by XOR_ROWS and ADD_ROWS. -/
theorem getElem?_eq_rowEntry {rows : List (List Word)}
    (h : rows.length = 257 ∧ ∀ row ∈ rows, row.length = 6) (n : Fin 257) (i : Fin 6) :
    rows[n.val]?.bind (·[i.val]?) = some (rowEntry rows n.val i.val) :=
  bind_getElem?_eq_some_getD h.2 (n.isLt.trans_eq h.1.symm) i.isLt 0

theorem tablesOf_permRows {r : RawConfig}
    (h : r.permRows.length = 256 ∧ ∀ row ∈ r.permRows, row.length = 6 ∧ ∀ e ∈ row, e.toNat ≤ 5)
    (n : Fin 256) (i : Fin 6) :
    (r.permRows[n.val]?.bind (·[i.val]?)).map BitVec.toNat =
      some ((tablesOf r).permRows n i).val := by
  obtain ⟨hlen, hrows⟩ := h
  have hn : n.val < r.permRows.length := n.isLt.trans_eq hlen.symm
  obtain ⟨hwidth, hrange⟩ := forall_mem_getD hrows hn []
  have hle : (permEntry r.permRows n.val i.val).toNat ≤ 5 :=
    forall_mem_getD hrange (i.isLt.trans_eq hwidth.symm) 0
  have hentry : r.permRows[n.val]?.bind (·[i.val]?) = some (permEntry r.permRows n.val i.val) :=
    bind_getElem?_eq_some_getD (fun row hrow => (hrows row hrow).1) hn i.isLt 0
  rw [hentry, Option.map_some]
  exact congrArg some (Nat.mod_eq_of_lt (Nat.lt_succ_of_le hle)).symm

theorem tablesOf_finalSelector {r : RawConfig}
    (h : r.finalSelector.length = 48 ∧ ∀ e ∈ r.finalSelector, e.toNat ≤ 47) (i : Fin 48) :
    r.finalSelector[i.val]?.map BitVec.toNat = some ((tablesOf r).finalSelector i).val := by
  obtain ⟨hlen, hrange⟩ := h
  have hi : i.val < r.finalSelector.length := i.isLt.trans_eq hlen.symm
  have hle : (selectorEntry r.finalSelector i.val).toNat ≤ 47 := forall_mem_getD hrange hi 0
  have hentry : r.finalSelector[i.val]? = some (selectorEntry r.finalSelector i.val) :=
    getElem?_eq_some_getD hi 0
  rw [hentry, Option.map_some]
  exact congrArg some (Nat.mod_eq_of_lt (Nat.lt_succ_of_le hle)).symm

/-- Settles O46: the check is the conjunction of R7, and a set that meets it is loaded entry by entry. -/
theorem bootAcceptsExactlyTheCheckedTables : Obligations.BootAcceptsExactlyTheCheckedTables := by
  intro r
  refine ⟨?_, boot_of_loadConfig_none, fun cfg hload => ?_⟩
  · rw [exists_loadConfig_eq_some_iff, RawConfig.wellFormed_iff]
  · obtain ⟨hwf, htables, hmixK, hversion, hlock⟩ := loadConfig_eq_some hload
    obtain ⟨hinit, hxor, hadd, hperm, hsel, -⟩ := r.wellFormed_iff.mp hwf
    rw [htables]
    exact ⟨boot_of_loadConfig_some hload, resetOf_hasResetValues cfg, hmixK, hversion, hlock,
      tablesOf_initVector hinit,
      fun n i => ⟨getElem?_eq_rowEntry hxor n i, getElem?_eq_rowEntry hadd n i⟩,
      tablesOf_permRows hperm, tablesOf_finalSelector hsel⟩

end Machine

end Sys2Proof
end

section
/-! The registers of the window (10_state.md R33 to R37): what a read of a register does, once for every
register, and the value of each packed register as a number; O27 to O31. -/

namespace Sys2Proof.Machine

/-! ### A read of a register is answered, or held -/

/-- An access that the hold rule does not stop completes at once (20_memory.md R62). -/
theorem present_of_not_held {t : HostAccess} {g : Target} {s : State} (hg : target? t = some g)
    (hfree : s.mode = .idle ∨ g.heldWhileBusy = false) : present t s = complete g s := by
  rcases hfree with hidle | hnever
  · simp [present, hg, hidle]
  · simp [present, hg, hnever]

/-- An access that the hold rule stops becomes the one outstanding (20_memory.md R62). -/
theorem present_of_held {t : HostAccess} {g : Target} {s : State} (hg : target? t = some g)
    (hbusy : s.mode = .finalizing) (hheld : g.heldWhileBusy = true) :
    present t s = .next { s with port := some t } := by
  simp [present, hg, hbusy, hheld]

/-- A register shows the block, not the events still to come. -/
@[simp] theorem readRegister_host (cfg : Config) (r : Reg) (s : State) (rest : List HostEvent) :
    readRegister cfg r { s with host := rest } = readRegister cfg r s := by
  cases r <;> rfl

section Read

variable {s : State} {rest : List HostEvent} {r : Reg}

/-- A read that is not held is answered with the register and changes nothing else (R33 to R37). -/
theorem step_read_answered (hport : s.port = none)
    (hhost : s.host = .issue (HostAccess.readAt r.offset) :: rest)
    (hfree : s.mode = .idle ∨ (Target.register r).heldWhileBusy = false) :
    step s = .next { s with
      host := rest, resp := some { ok := true, data := some (readRegister Config.machine r s) } } := by
  rw [step_of_issue hport hhost,
    present_of_not_held (s := { s with host := rest }) (target?_readAt_offset r) hfree]
  simp only [complete, readRegister_host]
  rfl

/-- A read that is held while FINALIZING only becomes the outstanding access (R35 to R37). -/
theorem step_read_held (hport : s.port = none)
    (hhost : s.host = .issue (HostAccess.readAt r.offset) :: rest)
    (hbusy : s.mode = .finalizing) (hheld : (Target.register r).heldWhileBusy = true) :
    step s = .next { s with host := rest, port := some (HostAccess.readAt r.offset) } := by
  rw [step_of_issue hport hhost,
    present_of_held (s := { s with host := rest }) (target?_readAt_offset r) hbusy hheld]

end Read

/-! ### The packed registers as numbers -/

/-- Concatenation as arithmetic: the left operand stands above the right one. -/
theorem toNat_append_eq_mul_add {m n : Nat} (x : BitVec m) (y : BitVec n) :
    (x ++ y).toNat = x.toNat * 2 ^ n + y.toNat := by
  rw [BitVec.toNat_append, ← Nat.shiftLeft_add_eq_or_of_lt y.isLt, Nat.shiftLeft_eq]

/-- STATUS as a number: ERR, LOCK, FIN, DVALID and BUSY from the top (R33). -/
theorem statusWord_toNat (cfg : Config) (s : State) :
    (statusWord cfg s).toNat =
      16 * s.err.toNat + 8 * cfg.lockOnDigest.toNat + 4 * s.fin.toNat + 2 * s.dvalid.toNat +
        (busy s).toNat := by
  have herr := s.err.isLt
  have hlock := cfg.lockOnDigest.toNat_lt
  have hfin := s.fin.toNat_lt
  have hdvalid := s.dvalid.toNat_lt
  have hbusy := (busy s).toNat_lt
  simp only [statusWord, BitVec.truncate_eq_setWidth, BitVec.toNat_setWidth, toNat_append_eq_mul_add,
    BitVec.toNat_ofBool]
  omega

/-- The four single bits of STATUS (R33). -/
theorem statusWord_flagBits (cfg : Config) (s : State) :
    (statusWord cfg s).getLsbD 0 = busy s ∧ (statusWord cfg s).getLsbD 1 = s.dvalid ∧
      (statusWord cfg s).getLsbD 2 = s.fin ∧ (statusWord cfg s).getLsbD 3 = cfg.lockOnDigest := by
  simp only [statusWord, BitVec.truncate_eq_setWidth, BitVec.getLsbD_setWidth, BitVec.getLsbD_append]
  simp

/-- BUSY is the mode (R33). -/
theorem busy_eq_true_iff (s : State) : busy s = true ↔ s.mode = .finalizing := by
  simp [busy]

/-- VERSION as a number: MAJOR, MINOR and PATCH from the top (R34). -/
theorem versionWord_toNat (v : Version) :
    (versionWord v).toNat = 0x10000 * v.major.toNat + 0x100 * v.minor.toNat + v.patch.toNat := by
  have hmajor := v.major.isLt
  have hminor := v.minor.isLt
  have hpatch := v.patch.isLt
  simp only [versionWord, BitVec.truncate_eq_setWidth, BitVec.toNat_setWidth, toNat_append_eq_mul_add]
  omega

/-- ROUND as a number is RND: its upper bits are 0 (R35). -/
theorem readRegister_round_toNat (cfg : Config) (s : State) :
    (readRegister cfg .round s).toNat = s.rnd.toNat := by
  have hrnd := s.rnd.isLt
  simp only [readRegister, BitVec.truncate_eq_setWidth, BitVec.toNat_setWidth]
  omega

/-- Byte `k` of a word, counted from the low end, as a number. -/
def byteOf {n : Nat} (x : BitVec n) (k : Nat) : Nat := x.toNat / 2 ^ (8 * k) % 256

theorem byteOf_zero (b : Byte) : byteOf b 0 = b.toNat := by
  have hb := b.isLt
  simp only [byteOf, Nat.mul_zero, pow_zero, Nat.div_one]
  omega

theorem byteOf_append_zero {m : Nat} (x : BitVec m) (b : Byte) : byteOf (x ++ b) 0 = b.toNat := by
  have hb := b.isLt
  simp only [byteOf, toNat_append_eq_mul_add, Nat.mul_zero, pow_zero, Nat.div_one]
  omega

/-- Above its low byte `b`, a concatenation has the bytes of `x`. -/
theorem byteOf_append_succ {m : Nat} (x : BitVec m) (b : Byte) (k : Nat) :
    byteOf (x ++ b) (k + 1) = byteOf x k := by
  have hb := b.isLt
  have hrest : (x.toNat * 2 ^ 8 + b.toNat) / 2 ^ 8 = x.toNat := by omega
  simp only [byteOf, toNat_append_eq_mul_add]
  rw [Nat.mul_succ, Nat.add_comm (8 * k), pow_add, ← Nat.div_div_eq_div_mul, hrest]

/-- DOUTj is little-endian: its byte `k` is `OB[8j+k]` (R37). -/
theorem byteOf_doutWord (ob : Vector Byte 48) (j : Fin 6) (k : Fin 8) :
    byteOf (doutWord ob j) k = (ob[8 * j.val + k.val]'(by omega)).toNat := by
  unfold doutWord
  fin_cases k <;> simp [byteOf_zero, byteOf_append_zero, byteOf_append_succ]

/-- DOUT of a cleared output buffer reads 0 (R37, R39). -/
theorem doutWord_replicate_zero (j : Fin 6) : doutWord (Vector.replicate 48 0x00) j = 0 := by
  simp [doutWord]

/-! ### The obligations -/

/-- Settles O27: STATUS is never held, and its word shows each flag. -/
theorem statusShowsTheFlags : Obligations.StatusShowsTheFlags := by
  refine ⟨fun s rest hport hhost => ⟨statusWord Config.machine s,
    step_read_answered (r := .status) hport hhost (.inr rfl), ?_⟩, ?_⟩
  · obtain ⟨hbusy, hdvalid, hfin, hlock⟩ := statusWord_flagBits Config.machine s
    refine ⟨by rw [hbusy, busy_eq_true_iff], hdvalid, hfin, hlock, ?_⟩
    have hlockLt := Config.machine.lockOnDigest.toNat_lt
    have hfinLt := s.fin.toNat_lt
    have hdvalidLt := s.dvalid.toNat_lt
    have hbusyLt := (busy s).toNat_lt
    rw [statusWord_toNat]
    omega
  · rw [statusWord_toNat]
    simp [State.reset, State.resetOf, busy]

/-- Settles O28: VERSION is never held, and its word holds the three fields. -/
theorem versionShowsTheTriple : Obligations.VersionShowsTheTriple := by
  refine ⟨fun s rest hport hhost => ⟨versionWord Config.machine.version,
    step_read_answered (r := .version) hport hhost (.inr rfl), ?_⟩, by decide⟩
  have hminor := Config.machine.version.minor.isLt
  have hpatch := Config.machine.version.patch.isLt
  rw [versionWord_toNat]
  omega

/-- Settles O29: ROUND is RND widened, and the hold rule applies to it. -/
theorem roundShowsTheCounter : Obligations.RoundShowsTheCounter :=
  ⟨fun s _ hport hhost =>
    ⟨fun hidle => ⟨_, readRegister_round_toNat Config.machine s,
      step_read_answered (r := .round) hport hhost (.inl hidle)⟩,
    fun hbusy => step_read_held (r := .round) hport hhost hbusy rfl⟩, rfl⟩

/-- Settles O30: WORDi is a word of the state, and the hold rule applies to it. -/
theorem wordRegistersShowTheState : Obligations.WordRegistersShowTheState := by
  refine fun i => ⟨fun s rest hport hhost =>
    ⟨fun hidle => step_read_answered (r := .word i) hport hhost (.inl hidle),
    fun hbusy => step_read_held (r := .word i) hport hhost hbusy rfl⟩, ?_⟩
  simp [readRegister, State.reset, State.resetOf]

/-- Settles O31: DOUTj packs its eight bytes of the buffer, and the hold rule applies to it. -/
theorem doutRegistersPackTheDigest : Obligations.DoutRegistersPackTheDigest :=
  fun j => ⟨fun s _ hport hhost =>
    ⟨fun hidle => ⟨doutWord s.ob j, step_read_answered (r := .dout j) hport hhost (.inl hidle),
      byteOf_doutWord s.ob j⟩,
    fun hbusy => step_read_held (r := .dout j) hport hhost hbusy rfl⟩,
    doutWord_replicate_zero j⟩

end Sys2Proof.Machine
end

section
/-! The sequencer and the completion flag (10_state.md R23 to R27): what a step does to the registers that
control a DIGEST, said once; the invariants over them, which every step keeps; O40. -/

namespace Sys2Proof.Machine

open Sys2Proof.Safety

/-! ### What a step does to the control registers -/

/-- The registers that the invariants of R27 are about. -/
structure Control where
  fin    : Bool
  mode   : Mode
  fidx   : BitVec 6
  fb     : BitVec 9
  dvalid : Bool

/-- The control registers of a state. -/
def State.control (s : State) : Control := ⟨s.fin, s.mode, s.fidx, s.fb, s.dvalid⟩

theorem control_eq_iff (s : State) (c : Control) :
    s.control = c ↔
      s.fin = c.fin ∧ s.mode = c.mode ∧ s.fidx = c.fidx ∧ s.fb = c.fb ∧ s.dvalid = c.dvalid := by
  cases c
  simp only [State.control, Control.mk.injEq]

/-- FIDX names the entry of its own number (20_memory.md R55). -/
theorem selectorIndex?_toNat {i : BitVec 6} {j : Fin 48} (h : selectorIndex? i = some j) :
    i.toNat = j.val := by
  by_cases hi : i.toNat < 48
  · rw [selectorIndex?_eq_some hi] at h
    exact congrArg Fin.val (Option.some.inj h)
  · rw [selectorIndex?_eq_none hi] at h
    cases h

/-- The byte fed back is in range as a row index (R26). -/
theorem zext9_toNat (b : Byte) : (zext9 b).toNat = b.toNat := by
  have hb := b.isLt
  simp only [zext9, BitVec.truncate_eq_setWidth, BitVec.toNat_setWidth]
  omega

/-- Everything that a step from `s` to `t` can do to the control registers. -/
inductive ControlCase (s t : State) : Prop
  /-- the hardware reset, or an accepted RESET (R39) -/
  | reset (hw : writesResetValues s) (ht : t.control = ⟨false, .idle, 0, 256, false⟩)
  /-- a step that writes none of them -/
  | kept (ht : t.control = s.control)
  /-- an accepted DIGEST (42_finalize.md R130) -/
  | started (ha : acceptedCommand s = some .digest) (hfin : s.fin = false)
      (ht : t.control = ⟨false, .finalizing, 0, 256, false⟩)
  /-- a round of the engine before the last (42_finalize.md R133) -/
  | round (he : engineMoves s = true) (hm : s.mode = .finalizing) (hi : s.fidx.toNat < 47) (b : Byte)
      (ht : t.control = ⟨s.fin, .finalizing, s.fidx + 1, zext9 b, s.dvalid⟩)
  /-- the last round of the engine (42_finalize.md R133) -/
  | finished (he : engineMoves s = true) (hm : s.mode = .finalizing) (hi : s.fidx.toNat = 47)
      (ht : t.control = ⟨s.fin || Config.machine.lockOnDigest, .idle, 0, 256, true⟩)

/-- A command that the step from `s` accepts, executed in a state with the same control registers. -/
theorem controlCase_of_exec {s u t : State} {i : Instr} (hm : s.mode = .idle)
    (ha : acceptedCommand s = some i) (hu : u.control = s.control) (h : exec i u = .next t) :
    ControlCase s t := by
  obtain ⟨hfin, hmode, -⟩ := (control_eq_iff u s.control).mp hu
  rcases exec_cases i u with ⟨rfl, he⟩ | ⟨-, -, he⟩ | ⟨b, -, -, he⟩ | ⟨rfl, hf, he⟩ <;>
    cases he.symm.trans h
  · exact .reset (.inr ha) (by simp [State.control, hmode.trans hm])
  · exact .kept (by rw [← hu]; simp [State.control])
  · exact .kept hu
  · exact .started ha (hfin.symm.trans hf) (by simp [State.control, hf])

/-- A round of the engine in the step from `s`, from a state with the same control registers. -/
theorem controlCase_of_finRound {s u t : State} (he : engineMoves s = true) (hm : s.mode = .finalizing)
    (hu : u.control = s.control) (h : finRound Config.machine u = .next t) : ControlCase s t := by
  obtain ⟨hfin, hmode, hfidx, -, hdvalid⟩ := (control_eq_iff u s.control).mp hu
  obtain ⟨n, i, -, hi, rfl⟩ := finRound_next h
  have hindex : s.fidx.toNat = i.val := (congrArg BitVec.toNat hfidx).symm.trans (selectorIndex?_toNat hi)
  have hlt := i.isLt
  by_cases hlast : i.val = 47
  · exact .finished he hm (hindex.trans hlast) (by simp [State.control, hlast, hfin])
  · refine .round he hm (by omega)
      (extractByte (mixRound Config.machine n u).words (Config.machine.tables.finalSelector i)) ?_
    simp [State.control, hlast, hfin, hmode, hm, hfidx, hdvalid]

/-- A transaction that the step from `s` presents; only while IDLE can it be an accepted command. -/
theorem controlCase_of_present {s u t : State} {a : HostAccess} (hu : u.control = s.control)
    (ha : s.mode = .idle → acceptedAccess s = some a) (h : present a u = .next t) :
    ControlCase s t := by
  have hcase := present_cases a u
  generalize present a u = o at hcase h
  cases hcase with
  | accessError => cases h; exact .kept (by rw [← hu]; simp [State.control])
  | held => cases h; exact .kept hu
  | read => cases h; exact .kept hu
  | illegalWord => cases h; exact .kept (by rw [← hu]; simp [State.control])
  | command v i ht hm hd =>
    have hidle : s.mode = .idle := (congrArg Control.mode hu).symm.trans hm
    exact controlCase_of_exec (u := respond .writeOk u) hidle
      (acceptedCommand_of_access (ha hidle) ht hd) hu h

theorem controlCase_of_step {s t : State} (h : step s = .next t) : ControlCase s t := by
  have hcase := step_cases s
  generalize step s = o at hcase h
  cases hcase with
  | reset hr => cases h; exact .reset (.inl hr) (by simp [State.control])
  | engine _ hm he => exact controlCase_of_finRound (u := { s with host := hostAfter s }) he hm rfl h
  | access a _ _ _ ha =>
    exact controlCase_of_present (u := { s with host := hostAfter s, port := none }) rfl ha h
  | poll => cases h; exact .kept rfl
  | wait => cases h; exact .kept rfl

/-! ### The invariants of R25 to R27, which every step keeps -/

/-- A round before the last counts FIDX up and feeds a byte back, so neither FIDX = 0 nor the sentinel
comes again in the sequence. -/
theorem step_keeps_sequencerOk {s t : State} (hs : SequencerOk s) (h : step s = .next t) :
    SequencerOk t := by
  have idleOk : t.mode = .idle → t.fidx = 0 → t.fb = 256 → SequencerOk t :=
    fun hm hi hb => ⟨fun _ => ⟨hi, hb⟩, fun hf => by simp [hm] at hf⟩
  cases controlCase_of_step h with
  | reset _ ht =>
    obtain ⟨-, hm, hi, hb, -⟩ := (control_eq_iff t _).mp ht
    exact idleOk hm hi hb
  | finished _ _ _ ht =>
    obtain ⟨-, hm, hi, hb, -⟩ := (control_eq_iff t _).mp ht
    exact idleOk hm hi hb
  | kept ht =>
    obtain ⟨-, hm, hi, hb, hd⟩ := (control_eq_iff t _).mp ht
    simpa only [SequencerOk, State.control, hm, hi, hb, hd] using hs
  | started _ _ ht =>
    obtain ⟨-, hm, hi, hb, hd⟩ := (control_eq_iff t _).mp ht
    simp [SequencerOk, hm, hi, hb, hd]
  | round _ hbusy hlt b ht =>
    obtain ⟨-, hm, hi, hb, hd⟩ := (control_eq_iff t _).mp ht
    obtain ⟨-, -, -, hdvalid⟩ := hs.2 hbusy
    have hindex : t.fidx.toNat = s.fidx.toNat + 1 := by
      rw [hi, BitVec.toNat_add_of_lt (by simp; omega)]
      rfl
    have hnonzero : t.fidx ≠ 0 := fun h0 => by simp [h0] at hindex
    have hbyte : t.fb ≠ 256 := hb ▸ zext9_ne_sentinel b
    have hrange : t.fb.toNat ≤ 256 := by
      rw [hb, zext9_toNat]
      exact b.isLt.le
    exact ⟨fun hidle => by simp [hm] at hidle,
      fun _ => ⟨by omega, hrange, iff_of_false hbyte hnonzero, hd.trans hdvalid⟩⟩

/-- FIN rises only in the last round, under LOCK_ON_DIGEST and with DVALID; with FIN set no DIGEST
starts. -/
theorem step_keeps_finishedOk {s t : State} (hs : FinishedOk s) (h : step s = .next t) :
    FinishedOk t := by
  cases controlCase_of_step h with
  | reset _ ht =>
    obtain ⟨hf, -⟩ := (control_eq_iff t _).mp ht
    simp [FinishedOk, hf]
  | started _ _ ht =>
    obtain ⟨hf, -⟩ := (control_eq_iff t _).mp ht
    simp [FinishedOk, hf]
  | kept ht =>
    obtain ⟨hf, hm, -, -, hd⟩ := (control_eq_iff t _).mp ht
    simpa only [FinishedOk, State.control, hf, hm, hd] using hs
  | round _ hbusy _ _ ht =>
    obtain ⟨hf, -⟩ := (control_eq_iff t _).mp ht
    intro hset
    obtain ⟨-, hidle, -⟩ := hs (hf.symm.trans hset)
    exact absurd (hbusy.symm.trans hidle) (by decide)
  | finished _ _ _ ht =>
    obtain ⟨hf, hm, -, -, hd⟩ := (control_eq_iff t _).mp ht
    intro hset
    have hlock : Config.machine.lockOnDigest = true := by
      rcases (Bool.or_eq_true _ _).mp (hf.symm.trans hset) with hold | hlock
      · obtain ⟨hlock, -⟩ := hs hold
        exact hlock
      · exact hlock
    exact ⟨hlock, hm, hd⟩

/-! ### Every reachable state -/

/-- What every step keeps holds at the end of a run that it holds at the start of. -/
theorem run_keeps {M : Host.Core} {P : M.State → Prop}
    (hstep : ∀ s t, P s → M.step s = .next t → P t) {k : Nat} {s t : M.State} (hs : P s)
    (h : M.run k s = .next t) : P t := by
  induction k generalizing s with
  | zero => cases h; exact hs
  | succ k ih =>
    unfold Host.Core.run at h
    split at h
    next u hu => exact ih (hstep s u hs hu) h
    next => cases h
    next => cases h

theorem sequencerOk_reset (l : List HostEvent) : SequencerOk { State.reset with host := l } := by
  simp [SequencerOk, State.reset, State.resetOf]

theorem finishedOk_reset (l : List HostEvent) : FinishedOk { State.reset with host := l } := by
  simp [FinishedOk, State.reset, State.resetOf]

/-- Settles O40: both invariants hold at reset, whatever the host is to issue, and every step keeps
them. -/
theorem reachableStatesMeetTheStatedInvariants :
    Obligations.ReachableStatesMeetTheStatedInvariants := by
  intro l k t hrun
  obtain ⟨hidle, hfinalizing⟩ : SequencerOk t :=
    run_keeps (M := Sys2Proof.core) (fun _ _ => step_keeps_sequencerOk) (sequencerOk_reset l) hrun
  have hfinished : FinishedOk t :=
    run_keeps (M := Sys2Proof.core) (fun _ _ => step_keeps_finishedOk) (finishedOk_reset l) hrun
  refine ⟨hidle, fun hm => ?_, hfinished, fun hm => ?_⟩
  · obtain ⟨hindex, -, hsentinel, -⟩ := hfinalizing hm
    exact ⟨hindex, hsentinel⟩
  · obtain ⟨-, -, -, hdvalid⟩ := hfinalizing hm
    exact hdvalid

end Sys2Proof.Machine
end

section
/-! One host access (20_memory.md R60 to R62) and the bytes of the state (R56): what a legal access
targets and when it is held, by its offset; O15 and O25. -/

namespace Sys2Proof.Machine

open Sys2Proof.Safety

/-! ### The state read as bytes -/

/-- Byte `sel` of the state is byte `sel % 8` of word `sel / 8` (R56, 42_finalize.md R131). -/
theorem extractByte_toNat (w : Vector Word 6) (sel : Fin 48) :
    (extractByte w sel).toNat = byteOf (w[sel.val / 8]'(by omega)) (sel.val % 8) := by
  rw [extractByte, BitVec.extractLsb'_toNat, Nat.shiftRight_eq_div_pow]
  rfl

/-- Settles O15: `8 * i + k` divided by 8 is `i`, with remainder `k`. -/
theorem extractByteIsLittleEndian : Obligations.ExtractByteIsLittleEndian := by
  intro w i k sel hsel
  have hword : sel.val / 8 = i.val := by omega
  have hbyte : sel.val % 8 = k.val := by omega
  rw [extractByte_toNat]
  simp only [hword, hbyte]
  rfl

/-! ### What a legal access targets -/

/-- A register stands at each multiple of 8 between CMD and the end of the window (R60). -/
theorem exists_reg_offset_eq {off : Nat} (haligned : off % 8 = 0) (hcmd : off ≠ 0x00)
    (hend : off < 0x80) : ∃ r : Reg, r.offset = off := by
  rcases Nat.lt_or_ge off 0x20 with hlow | hword
  · have hoff : off = 0x08 ∨ off = 0x10 ∨ off = 0x18 := by omega
    rcases hoff with rfl | rfl | rfl
    · exact ⟨.status, rfl⟩
    · exact ⟨.version, rfl⟩
    · exact ⟨.round, rfl⟩
  · rcases Nat.lt_or_ge off 0x50 with hlow | hdout
    · exact ⟨.word ⟨(off - 0x20) / 8, by omega⟩, by simp only [Reg.offset]; omega⟩
    · exact ⟨.dout ⟨(off - 0x50) / 8, by omega⟩, by simp only [Reg.offset]; omega⟩

/-- The hold rule spares the registers at the offsets of STATUS and VERSION (R60). -/
theorem register_heldWhileBusy_iff (r : Reg) :
    (Target.register r).heldWhileBusy = true ↔ r.offset ≠ 0x08 ∧ r.offset ≠ 0x10 := by
  cases r with
  | status => decide
  | version => decide
  | round => decide
  | word i => simp only [Target.heldWhileBusy, Reg.offset, true_iff]; omega
  | dout j => simp only [Target.heldWhileBusy, Reg.offset, true_iff]; omega

/-- The conditions that R62 sets for a legal access. -/
theorem not_illegalHostAccess_iff (t : HostAccess) :
    ¬ IllegalHostAccess t ↔
      t.width = 8 ∧ t.offset % 8 = 0 ∧ t.offset < 0x80 ∧ (t.kind = .read → t.offset ≠ 0x00) ∧
        (t.kind = .write → t.offset = 0x00) := by
  simp only [IllegalHostAccess, not_or, not_and, not_not, not_le]

theorem target?_of_illegal {t : HostAccess} (h : IllegalHostAccess t) : target? t = none := by
  rw [target?, if_pos ((illegalAccess_iff t).mpr h)]

/-- A legal read has a register at its offset (R60, R62). -/
theorem target?_of_legal_read {t : HostAccess} (h : ¬ IllegalHostAccess t) (hkind : t.kind = .read) :
    ∃ r : Reg, r.offset = t.offset ∧ target? t = some (.register r) := by
  have hlegal : ¬ illegalAccess t = true := mt (illegalAccess_iff t).mp h
  obtain ⟨-, haligned, hend, hread, -⟩ := (not_illegalHostAccess_iff t).mp h
  obtain ⟨r, hr⟩ := exists_reg_offset_eq haligned (hread hkind) hend
  have hat : registerAt? t.offset = some r := (registerAt?_eq_some_iff r t.offset).mpr hr.symm
  exact ⟨r, hr, by simp only [target?, if_neg hlegal, hkind, hat, Option.map_some]⟩

/-- A legal write is one to CMD (R61, R62). -/
theorem target?_of_legal_write {t : HostAccess} (h : ¬ IllegalHostAccess t) (hkind : t.kind = .write) :
    t.offset = 0x00 ∧ target? t = some (.command t.data) := by
  have hlegal : ¬ illegalAccess t = true := mt (illegalAccess_iff t).mp h
  obtain ⟨-, -, -, -, hwrite⟩ := (not_illegalHostAccess_iff t).mp h
  exact ⟨hwrite hkind, by simp only [target?, if_neg hlegal, hkind]⟩

/-- A legal access has a target, and while FINALIZING it is held by its offset alone (R60, R62). -/
theorem exists_target_of_legal {t : HostAccess} (h : ¬ IllegalHostAccess t) :
    ∃ g, target? t = some g ∧ (g.heldWhileBusy = true ↔ t.offset ≠ 0x08 ∧ t.offset ≠ 0x10) := by
  cases hkind : t.kind with
  | read =>
    obtain ⟨r, hr, hg⟩ := target?_of_legal_read h hkind
    exact ⟨.register r, hg, hr ▸ register_heldWhileBusy_iff r⟩
  | write =>
    obtain ⟨hcmd, hg⟩ := target?_of_legal_write h hkind
    exact ⟨.command t.data, hg, by simp [Target.heldWhileBusy, hcmd]⟩

/-! ### What presenting it does -/

/-- An access error is answered at once, in every mode (R62). -/
theorem present_of_illegal {t : HostAccess} (s : State) (h : IllegalHostAccess t) :
    present t s = .next (raise .access (respond (.accessError t.kind) s)) := by
  simp only [present, target?_of_illegal h]

theorem present_of_mustWait {t : HostAccess} {s : State} (h : ¬ IllegalHostAccess t)
    (hwait : MustWait s t) : present t s = .next { s with port := some t } := by
  obtain ⟨hbusy, hoff⟩ := hwait
  obtain ⟨g, hg, hheld⟩ := exists_target_of_legal h
  exact present_of_held hg hbusy (hheld.mpr hoff)

theorem present_of_not_mustWait {t : HostAccess} {g : Target} {s : State} (h : ¬ IllegalHostAccess t)
    (hfree : ¬ MustWait s t) (hg : target? t = some g) : present t s = complete g s := by
  obtain ⟨g', hg', hheld⟩ := exists_target_of_legal h
  obtain rfl : g = g' := Option.some.inj (hg.symm.trans hg')
  cases hmode : s.mode with
  | idle => exact present_of_not_held hg (.inl hmode)
  | finalizing =>
    have hspared : ¬ g.heldWhileBusy = true := fun hyes => hfree ⟨hmode, hheld.mp hyes⟩
    exact present_of_not_held hg (.inr (Bool.eq_false_of_not_eq_true hspared))

/-- The error response: data 0 for a read, none for a write (R62). -/
theorem accessError_eq (kind : AccessKind) :
    Response.accessError kind = { ok := false, data := if kind = .read then some 0 else none } := by
  cases kind <;> rfl

/-- Settles O25: the step presents the access, which is an error, held, or completed at its target. -/
theorem hostAccessFollowsItsRule : Obligations.HostAccessFollowsItsRule := by
  intro s t rest hport hhost
  rw [step_of_issue hport hhost]
  refine ⟨fun hillegal => ?_, fun hlegal hwait => ?_, fun hlegal hfree hread => ?_,
    fun hlegal hfree hwrite => ?_⟩
  · rw [present_of_illegal _ hillegal, raise_eq, accessError_eq]
    rfl
  · exact present_of_mustWait (s := { s with host := rest }) hlegal hwait
  · obtain ⟨r, hr, hg⟩ := target?_of_legal_read hlegal hread
    refine ⟨r, hr, ?_⟩
    rw [present_of_not_mustWait (s := { s with host := rest }) hlegal hfree hg, complete,
      readRegister_host]
    rfl
  · obtain ⟨-, hg⟩ := target?_of_legal_write hlegal hwrite
    exact present_of_not_mustWait (s := { s with host := rest }) hlegal hfree hg

end Sys2Proof.Machine
end

section
/-! The decoder and the assembler (30_encoding.md): a word as its three fields, the words of each command,
the write of an illegal word, and what a pseudo-instruction assembles to; O2, O3, O6, O47 and O48. -/

namespace Sys2Proof

open Sys2Proof.Machine Sys2Proof.Safety

/-! ### The fields of a command word -/

theorem fieldRsv_toNat (v : Word) : (fieldRsv v).toNat = v.toNat / 0x10000 := by
  have hv := v.isLt
  rw [fieldRsv, BitVec.extractLsb'_toNat, Nat.shiftRight_eq_div_pow]
  omega

theorem fieldOp_toNat (v : Word) : (fieldOp v).toNat = v.toNat / 0x100 % 0x100 := by
  rw [fieldOp, BitVec.extractLsb'_toNat, Nat.shiftRight_eq_div_pow]

theorem fieldOpnd_toNat (v : Word) : (fieldOpnd v).toNat = v.toNat % 0x100 := by
  rw [fieldOpnd, BitVec.extractLsb'_toNat, Nat.shiftRight_zero]

/-- OP and OPND are the two low bytes of a command word whose RSV is 0 (R80). -/
theorem commandWord_toNat (op opnd : Byte) :
    (commandWord op opnd).toNat = 0x100 * op.toNat + opnd.toNat := by
  rw [commandWord, toNat_append_eq_mul_add, toNat_append_eq_mul_add, Nat.mul_comm]
  simp

/-- The OP field of a command's words (R81). -/
def Instr.opcode : Instr → Byte
  | .reset => 0x01
  | .consume _ => 0x02
  | .digest => 0x03

/-- The OPND field of a command's words (R81). -/
def Instr.operand : Instr → Byte
  | .reset => 0x00
  | .consume b => b
  | .digest => 0x00

theorem encode_eq_commandWord (i : Instr) : encode i = commandWord i.opcode i.operand := by
  cases i <;> rfl

/-! ### What decodes to a command -/

/-- A word decodes to the command that its fields name (R83). -/
theorem decode_eq_instr_iff_fields (v : Word) (i : Instr) :
    decode v = .instr i ↔ fieldRsv v = 0 ∧ fieldOp v = i.opcode ∧ fieldOpnd v = i.operand := by
  constructor
  · intro h
    unfold decode at h
    split_ifs at h with hrsv hreset hopnd hconsume hdigest hopnd
    · cases h; exact ⟨not_not.mp hrsv, hreset, hopnd⟩
    · cases h; exact ⟨not_not.mp hrsv, hconsume, rfl⟩
    · cases h; exact ⟨not_not.mp hrsv, hdigest, hopnd⟩
  · rintro ⟨hrsv, hop, hopnd⟩
    cases i <;> simp [decode, hrsv, hop, hopnd, Instr.opcode, Instr.operand]

/-- The fields of `decode_eq_instr_iff_fields` as numbers. -/
theorem decode_eq_instr_iff (v : Word) (i : Instr) :
    decode v = .instr i ↔
      v.toNat / 0x10000 = 0 ∧ v.toNat / 0x100 % 0x100 = i.opcode.toNat ∧
        v.toNat % 0x100 = i.operand.toNat := by
  rw [decode_eq_instr_iff_fields, ← BitVec.toNat_inj, ← BitVec.toNat_inj, ← BitVec.toNat_inj,
    fieldRsv_toNat, fieldOp_toNat, fieldOpnd_toNat]
  rfl

theorem decode_eq_reset_iff (v : Word) :
    decode v = .instr .reset ↔
      v.toNat / 0x10000 = 0 ∧ v.toNat / 0x100 % 0x100 = 1 ∧ v.toNat % 0x100 = 0 :=
  decode_eq_instr_iff v .reset

theorem decode_eq_consume_iff (v : Word) (b : Byte) :
    decode v = .instr (.consume b) ↔
      v.toNat / 0x10000 = 0 ∧ v.toNat / 0x100 % 0x100 = 2 ∧ v.toNat % 0x100 = b.toNat :=
  decode_eq_instr_iff v (.consume b)

theorem decode_eq_digest_iff (v : Word) :
    decode v = .instr .digest ↔
      v.toNat / 0x10000 = 0 ∧ v.toNat / 0x100 % 0x100 = 3 ∧ v.toNat % 0x100 = 0 :=
  decode_eq_instr_iff v .digest

/-- The three fields determine the word, so one word decodes to each command. -/
theorem decode_eq_instr_iff_eq_encode (v : Word) (i : Instr) :
    decode v = .instr i ↔ v = encode i := by
  have hop := i.opcode.isLt
  have hopnd := i.operand.isLt
  rw [decode_eq_instr_iff, encode_eq_commandWord, ← BitVec.toNat_inj, commandWord_toNat]
  omega

/-- CONSUME takes every operand byte, so RSV and OP alone make a word one of its words (R82). -/
theorem exists_decode_eq_consume_iff (v : Word) :
    (∃ b, decode v = .instr (.consume b)) ↔ v.toNat / 0x100 = 2 := by
  simp only [decode_eq_consume_iff]
  constructor
  · rintro ⟨b, hrsv, hop, -⟩
    omega
  · intro h
    exact ⟨fieldOpnd v, by omega, by omega, (fieldOpnd_toNat v).symm⟩

/-! ### What decodes to ILLEGAL -/

/-- ILLEGAL is what decodes to no command (R83). -/
theorem exists_decode_eq_illegal_iff_forall_ne (v : Word) :
    (∃ why, decode v = .illegal why) ↔ ∀ i, decode v ≠ .instr i := by
  cases decode v <;> simp

/-- The words that decode to no command are those that R84 lists. -/
theorem exists_decode_eq_illegal_iff (v : Word) :
    (∃ why, decode v = .illegal why) ↔ IllegalCommandWord v := by
  rw [exists_decode_eq_illegal_iff_forall_ne]
  constructor
  · intro hnone
    have hreset := mt (decode_eq_reset_iff v).mpr (hnone _)
    have hconsume := mt (exists_decode_eq_consume_iff v).mpr fun ⟨b, hb⟩ => hnone _ hb
    have hdigest := mt (decode_eq_digest_iff v).mpr (hnone _)
    simp only [IllegalCommandWord]
    omega
  · intro hillegal i hi
    simp only [IllegalCommandWord] at hillegal
    cases i with
    | reset =>
      have hfields := (decode_eq_reset_iff v).mp hi
      omega
    | consume b =>
      have hfields := (decode_eq_consume_iff v b).mp hi
      omega
    | digest =>
      have hfields := (decode_eq_digest_iff v).mp hi
      omega

/-- Settles O2: each command has its fields, and ILLEGAL is what is left. -/
theorem decodeClassifiesEveryWord : Obligations.DecodeClassifiesEveryWord := fun v =>
  ⟨decode_eq_reset_iff v, decode_eq_consume_iff v, decode_eq_digest_iff v,
    exists_decode_eq_illegal_iff v⟩

/-! ### The rows of the opcode table -/

theorem encode_consume_eq_or (b : Byte) :
    encode (.consume b) = 0x0000000000000200 ||| b.zeroExtend 64 := by
  rw [encode, commandWord, BitVec.append_def]
  rfl

/-- The mask of CONSUME's row clears the operand byte and keeps the rest (R86). -/
theorem and_consumeMask_toNat (v : Word) :
    (v &&& 0xFFFFFFFFFFFFFF00).toNat = v.toNat / 0x100 * 0x100 := by
  have hv := v.isLt
  have hmask : (0xFFFFFFFFFFFFFF00 : Word) = BitVec.allOnes 64 <<< 8 := by decide
  rw [hmask, ← BitVec.shiftLeft_ushiftRight, BitVec.toNat_shiftLeft, BitVec.toNat_ushiftRight,
    Nat.shiftLeft_eq, Nat.shiftRight_eq_div_pow]
  omega

theorem and_consumeMask_eq_iff (v : Word) :
    v &&& 0xFFFFFFFFFFFFFF00 = 0x0000000000000200 ↔ v.toNat / 0x100 = 2 := by
  have hmatch : (0x0000000000000200 : Word).toNat = 0x200 := rfl
  rw [← BitVec.toNat_inj, and_consumeMask_toNat, hmatch]
  omega

/-- The mask of RESET's and of DIGEST's row keeps every bit, so the row has one word (R86). -/
theorem and_fullMask_eq_encode_iff (v : Word) (i : Instr) :
    v &&& 0xFFFFFFFFFFFFFFFF = encode i ↔ decode v = .instr i := by
  have hmask : v &&& 0xFFFFFFFFFFFFFFFF = v := BitVec.and_allOnes
  rw [hmask, decode_eq_instr_iff_eq_encode]

/-- Settles O3: a full mask leaves the row's one word, and CONSUME's mask leaves RSV and OP. -/
theorem legalWordsMatchTheirMasks : Obligations.LegalWordsMatchTheirMasks :=
  ⟨rfl, encode_consume_eq_or, rfl, fun v =>
    ⟨and_fullMask_eq_encode_iff v .reset,
      (and_consumeMask_eq_iff v).trans (exists_decode_eq_consume_iff v).symm,
      and_fullMask_eq_encode_iff v .digest⟩⟩

namespace Machine

/-! ### The write of an illegal word -/

/-- An illegal word is no command: it raises ERR_ILLEGAL_CMD (R84). -/
theorem executeCommand_of_illegal {v : Word} (h : IllegalCommandWord v) (s : State) :
    executeCommand v s = .next (raise .illegalCmd s) := by
  obtain ⟨why, hwhy⟩ := (exists_decode_eq_illegal_iff v).mpr h
  simp only [executeCommand, hwhy]

/-- Settles O6: the step presents the write, which is answered and decoded, or held undecoded. -/
theorem illegalWordOnlyRaises : Obligations.IllegalWordOnlyRaises := by
  intro s v rest hport hhost hillegal
  rw [step_of_issue hport hhost]
  refine ⟨fun hidle => ?_, fun hbusy => ?_⟩
  · rw [present_of_not_held (s := { s with host := rest }) (target?_cmdWrite v) (.inl hidle),
      complete, executeCommand_of_illegal hillegal, raise_eq]
    rfl
  · exact present_of_held (s := { s with host := rest }) (target?_cmdWrite v) hbusy rfl

/-! ### Pseudo-instructions -/

/-- A statement assembles to what a program does whose operands pass the same checks and which makes the
host do the same. -/
theorem assemble_singleton_eq {st : Stmt} {p : List Stmt}
    (hwf : st.wellFormed = p.all Stmt.wellFormed) (hexpand : st.expand = p.flatMap Stmt.expand) :
    assemble [st] = assemble p := by
  simp only [assemble, List.all_cons, List.all_nil, Bool.and_true, List.flatMap_singleton, hwf, hexpand]

/-- Settles O47: FEED checks each byte as its CONSUME does, and issues that CONSUME. -/
theorem feedExpandsToConsumesInOrder : Obligations.FeedExpandsToConsumesInOrder := by
  refine ⟨fun bs => assemble_singleton_eq ?_ ?_, rfl⟩
  · rw [List.all_map]
    rfl
  · calc (Stmt.feed bs).expand
      _ = bs.map fun b => issueCommand (.consume b.value) := List.map_map
      _ = bs.flatMap fun b => (Stmt.consume b).expand := List.map_eq_flatMap
      _ = (bs.map Stmt.consume).flatMap Stmt.expand := (List.flatMap_map ..).symm

/-- Settles O48: of the four parts only FEED has operands to check. -/
theorem hashExpandsToItsFourParts : Obligations.HashExpandsToItsFourParts := by
  refine ⟨fun bs => assemble_singleton_eq ?_ ?_, fun text => assemble_singleton_eq rfl ?_⟩
  · simp [Stmt.wellFormed]
  · simp [Stmt.expand, hashEvents]
  · simp [Stmt.expand, hashEvents]

end Machine

end Sys2Proof
end

section
/-! The mixing engine (40_mixing.md): `mix64` as arithmetic and with equal operands (R100 to R102), the
lanes of a transition (R103, R104) and the mixing round (R105); O11 to O14. -/

namespace Sys2Proof.Machine

open Sys2Proof.Safety

/-! ### The avalanche function -/

/-- The logical shift by 47 is a division (R101). -/
theorem xorShift_toNat (x : Word) : (xorShift x).toNat = x.toNat ^^^ x.toNat / 2 ^ 47 := by
  rw [xorShift, BitVec.toNat_xor, BitVec.toNat_ushiftRight, Nat.shiftRight_eq_div_pow]

/-- An XOR times the multiplier, as in the steps a and c of R100: the product modulo 2^64 (R101). -/
theorem xor_mul_toNat (x y k : Word) :
    ((x ^^^ y) * k).toNat = (x.toNat ^^^ y.toNat) * k.toNat % 2 ^ 64 := by
  rw [BitVec.toNat_mul, BitVec.toNat_xor]

theorem xorShift_zero : xorShift 0#64 = 0#64 := by decide

/-- With equal operands the first product is 0, and the second operand's contribution vanishes
(R102). -/
theorem mix64_self (k u : Word) : mix64 k u u = xorShift (u * k) * k := by
  have hfirst : xorShift ((u ^^^ u) * k) = 0#64 := by
    rw [BitVec.xor_self, BitVec.zero_mul, xorShift_zero]
  rw [mix64, hfirst, BitVec.zero_xor]

theorem mix64_zero_zero (k : Word) : mix64 k 0 0 = 0 := by
  calc mix64 k 0 0
    _ = xorShift (0#64 * k) * k := mix64_self k 0
    _ = 0#64 := by rw [BitVec.zero_mul, xorShift_zero, BitVec.zero_mul]

/-- The example of R100, worked in R107. -/
theorem mix64_one_zero : mix64 Config.sourceMixK 1 0 = 0xF4FF80EC63C103D4 := by decide

/-- Settles O11: each step of the formula is one of the two laws on natural numbers. -/
theorem mix64IsTheModularFormula : Obligations.Mix64IsTheModularFormula := by
  refine ⟨fun k u v => ?_, mix64_one_zero⟩
  rw [mix64, BitVec.toNat_mul]
  simp only [xorShift_toNat, xor_mul_toNat]

/-! ### The lanes of a transition -/

/-- A lane that selects its own word and adds 0 has equal operands (R106). -/
theorem lane_of_selfSelection {k : Word} {w : Vector Word 6} {x a : Fin 6 → Word} {p : Fin 6 → Fin 6}
    {i : Fin 6} (hp : p i = i) (ha : a i = 0) : lane k w x a p i = xorShift (w[i] * k) * k ^^^ x i := by
  have hword : w[p i] = w[i] := congrArg (fun j : Fin 6 => w[j]) hp
  have hsum : w[i] + a i = w[i] := by rw [ha]; exact BitVec.add_zero _
  rw [lane, hword, hsum, mix64_self]

/-- Settles O12: the symbolic cases are those of equal operands, the other three are values. -/
theorem mix64CornerCases : Obligations.Mix64CornerCases := by
  refine ⟨mix64_zero_zero, mix64_self, fun k w x a p i hp ha => ?_, mix64_one_zero, by decide,
    by decide⟩
  exact (transition_getElem k w x a p i i.isLt).trans (lane_of_selfSelection hp ha)

/-- Settles O13: `transition_getElem`, and the value of lane 0 under T1's operands. -/
theorem transitionLanesReadTheOldWords : Obligations.TransitionLanesReadTheOldWords :=
  ⟨fun k w x a p i => transition_getElem k w x a p i i.isLt, by decide⟩

/-! ### The mixing round -/

/-- Each word after a round is its lane of the old words (R105). -/
theorem roundWords_getElem (cfg : Config) (n : Fin 257) (rnd : BitVec 8) (w : Vector Word 6)
    (i : Fin 6) : (roundWords cfg n rnd w)[i] = lanesOf cfg n rnd w i :=
  transition_getElem cfg.mixK w _ _ _ i i.isLt

/-- The round counter wraps at 256 (R105, R108). -/
theorem mixRound_rnd_toNat (cfg : Config) (n : Fin 257) (s : State) :
    (mixRound cfg n s).rnd.toNat = (s.rnd.toNat + 1) % 256 := by
  rw [mixRound_rnd, BitVec.toNat_add]
  rfl

/-- A round writes the words and RND, and nothing else (R105). -/
theorem mixRound_frame (cfg : Config) (n : Fin 257) (s : State) :
    { mixRound cfg n s with words := s.words, rnd := s.rnd } = s := rfl

/-- Settles O14: the lanes with the row of the old RND, the increment and its wrap, and the frame. -/
theorem mixRoundWritesWordsAndRoundOnly : Obligations.MixRoundWritesWordsAndRoundOnly := by
  refine fun cfg n s => ⟨fun i => ?lanes, mixRound_rnd_toNat cfg n s, fun hlast => ?wrap,
    mixRound_frame cfg n s⟩
  case lanes =>
    rw [mixRound_words]
    exact roundWords_getElem cfg n s.rnd s.words i
  case wrap =>
    rw [mixRound_rnd, hlast]
    rfl

end Sys2Proof.Machine
end

section
/-! Feeding a message (41_update.md R125): one CONSUME commutes with one step of the fold, hence so does a
list of them; O22. -/

namespace Sys2Proof.Machine

open Sys2Proof.Safety

/-! ### The fold of the mixing round -/

/-- One step of the fold of R125: the words after the round of a byte, and the number of bytes so far. -/
def foldRound (cfg : Config) (d : Vector Word 6 × Nat) (b : Byte) : Vector Word 6 × Nat :=
  (Vector.ofFn (lanesOf cfg (rowOfByte b) (BitVec.ofNat 8 d.2) d.1), d.2 + 1)

/-- Where the fold of R125 begins: INIT_VECTOR, and no byte so far. -/
def foldStart (cfg : Config) : Vector Word 6 × Nat := (Vector.ofFn cfg.tables.initVector, 0)

/-- The fold counts its bytes. -/
theorem foldl_foldRound_count (cfg : Config) (bs : List Byte) (d : Vector Word 6 × Nat) :
    (bs.foldl (foldRound cfg) d).2 = d.2 + bs.length := by
  induction bs generalizing d with
  | nil => rfl
  | cons b bs ih =>
    have hstep : (foldRound cfg d b).2 = d.2 + 1 := rfl
    rw [List.foldl_cons, ih, hstep, List.length_cons]
    omega

/-- The state that `s` becomes when the fold has reached `d`: the words, and RND as the count modulo 256;
everything else is that of `s` (R105). -/
def State.atFold (s : State) (d : Vector Word 6 × Nat) : State :=
  { s with words := d.1, rnd := BitVec.ofNat 8 d.2 }

@[simp] theorem State.atFold_words (s : State) (d : Vector Word 6 × Nat) : (s.atFold d).words = d.1 := rfl
@[simp] theorem State.atFold_rnd (s : State) (d : Vector Word 6 × Nat) :
    (s.atFold d).rnd = BitVec.ofNat 8 d.2 := rfl
@[simp] theorem State.atFold_fin (s : State) (d : Vector Word 6 × Nat) : (s.atFold d).fin = s.fin := rfl

/-- The mixing round of a byte is a step of the fold. -/
theorem mixRound_atFold (cfg : Config) (s : State) (d : Vector Word 6 × Nat) (b : Byte) :
    mixRound cfg (rowOfByte b) (s.atFold d) = s.atFold (foldRound cfg d b) := by
  have hrnd : BitVec.ofNat 8 d.2 + 1 = BitVec.ofNat 8 (d.2 + 1) := (BitVec.ofNat_add d.2 1).symm
  have hwords : roundWords cfg (rowOfByte b) (BitVec.ofNat 8 d.2) d.1 = (foldRound cfg d b).1 := rfl
  simp only [mixRound, State.atFold, hrnd, hwords, foldRound]

/-! ### Commands executed one after another -/

theorem execAll_cons_of_next {i : Instr} {s t : State} (is : List Instr) (h : exec i s = .next t) :
    execAll (i :: is) s = execAll is t := by
  simp only [execAll, h]

/-- CONSUME on a block that is not finished is the mixing round of its byte (R120). -/
theorem exec_consume_of_not_fin {s : State} (b : Byte) (hfin : s.fin = false) :
    exec (.consume b) s = .next (mixRound Config.machine (rowOfByte b) s) := by
  rcases execConsume_cases b s with ⟨hset, -⟩ | ⟨-, hround⟩
  · exact absurd hset (by simp [hfin])
  · exact hround

/-- CONSUMEs on a block that is not finished carry the fold over their bytes, and change nothing else
(R125). -/
theorem execAll_consume_atFold {s : State} (hfin : s.fin = false) (bs : List Byte)
    (d : Vector Word 6 × Nat) :
    execAll (bs.map .consume) (s.atFold d) =
      .next (s.atFold (bs.foldl (foldRound Config.machine) d)) := by
  induction bs generalizing d with
  | nil => rfl
  | cons b bs ih =>
    have hround : exec (.consume b) (s.atFold d) = .next (s.atFold (foldRound Config.machine d b)) := by
      rw [exec_consume_of_not_fin b ((s.atFold_fin d).trans hfin), mixRound_atFold]
    calc execAll ((b :: bs).map .consume) (s.atFold d)
      _ = execAll (bs.map .consume) (s.atFold (foldRound Config.machine d b)) :=
        execAll_cons_of_next _ hround
      _ = .next (s.atFold ((b :: bs).foldl (foldRound Config.machine) d)) := ih _

/-- RESET leaves the block where the fold begins (R150). -/
theorem exec_reset_eq_atFold (s : State) :
    exec .reset s = .next ((commandReset Config.machine s).atFold (foldStart Config.machine)) :=
  execReset_eq s

/-- After RESET and one CONSUME for each byte the fold has reached the end of the message (R125). -/
theorem execAll_reset_consume (bs : List Byte) (s : State) :
    execAll (.reset :: bs.map .consume) s =
      .next ((commandReset Config.machine s).atFold
        (bs.foldl (foldRound Config.machine) (foldStart Config.machine))) :=
  (execAll_cons_of_next _ (exec_reset_eq_atFold s)).trans
    (execAll_consume_atFold (commandReset_fin Config.machine s) bs (foldStart Config.machine))

/-- Settles O22: the words, RND and FIN of the state at the end of the fold. -/
theorem feedFoldsTheMessage : Obligations.FeedFoldsTheMessage := by
  refine fun bs s => ⟨_, execAll_reset_consume bs s, State.atFold_words _ _, ?round, ?finished⟩
  case round =>
    rw [State.atFold_rnd, BitVec.toNat_ofNat, foldl_foldRound_count]
    simp [foldStart]
  case finished =>
    rw [State.atFold_fin, commandReset_fin]

end Sys2Proof.Machine
end

section
/-! The 48 rounds of a sequence (42_finalize.md R133 to R136): what holds before round `k`, that the
round carries it to `k + 1`, and the run of rounds it gives; O17. -/

namespace Sys2Proof.Machine

open Sys2Proof.Safety

/-! ### Rounds one after another -/

/-- A run of rounds is extended by a round at its end. -/
theorem finRounds_succ_of_next {cfg : Config} {k : Nat} {s a b : State}
    (hrun : finRounds cfg k s = .next a) (hround : finRound cfg a = .next b) :
    finRounds cfg (k + 1) s = .next b := by
  induction k generalizing s with
  | zero =>
    cases hrun
    simp only [finRounds, hround]
  | succ k ih =>
    rw [finRounds] at hrun ⊢
    split at hrun
    next t _ => exact ih hrun
    next => cases hrun
    next => cases hrun

/-! ### What holds before round `k` -/

/-- The row of round `k`: the sentinel row first, then the row of the byte that the round before emitted
(R135). -/
def feedbackRow (k : Nat) (ob : Vector Byte 48) : Fin 257 :=
  if _ : k = 0 then ⟨256, by decide⟩ else rowOfByte (ob.toList.getD (k - 1) 0)

/-- After round `k` has written its byte to `OB[k]`, the row is that byte's. -/
theorem feedbackRow_succ_set {k : Nat} (hk : k < 48) (ob : Vector Byte 48) (b : Byte) :
    feedbackRow (k + 1) (ob.set k b) = rowOfByte b := by
  simp [feedbackRow, hk]

/-- The sequence that started with RND = `n` stands before its round `k` (R136). -/
structure BeforeRound (n k : Nat) (a : State) : Prop where
  mode : a.mode = .finalizing
  fidx : a.fidx.toNat = k
  row  : rowIndex? a.fb = some (feedbackRow k a.ob)
  rnd  : a.rnd = BitVec.ofNat 8 (n + k)

theorem beforeRound_zero {s : State} (h : AtFirstRound s) : BeforeRound s.rnd.toNat 0 s := by
  obtain ⟨hmode, hfidx, hfb, -⟩ := h
  refine ⟨hmode, congrArg BitVec.toNat hfidx, ?row, ?rnd⟩
  case row =>
    rw [hfb]
    exact rowIndex?_sentinel
  case rnd => rw [Nat.add_zero, BitVec.ofNat_toNat, BitVec.setWidth_eq]

/-- The state after round `k`: one mixing round of the fed-back row, and the byte emitted at `k`
(R133). -/
def afterRound (cfg : Config) (k : Fin 48) (a : State) : State :=
  emitByte cfg k (mixRound cfg (feedbackRow k a.ob) a)

theorem finRound_of_beforeRound (cfg : Config) {n k : Nat} {a : State} (hk : k < 48)
    (h : BeforeRound n k a) : finRound cfg a = .next (afterRound cfg ⟨k, hk⟩ a) := by
  have hindex : selectorIndex? a.fidx = some ⟨k, hk⟩ := by
    rw [selectorIndex?_eq_some (h.fidx.trans_lt hk)]
    exact congrArg some (Fin.ext h.fidx)
  simp only [finRound, h.row, hindex, afterRound]

/-- The words after round `k` are the lanes of its two rows. -/
theorem afterRound_words_getElem (cfg : Config) {n k : Nat} {a : State} (hk : k < 48)
    (h : BeforeRound n k a) (i : Fin 6) :
    (afterRound cfg ⟨k, hk⟩ a).words[i] =
      lanesOf cfg (feedbackRow k a.ob) (BitVec.ofNat 8 (n + k)) a.words i := by
  rw [afterRound, emitByte_words, mixRound_words, h.rnd]
  exact roundWords_getElem cfg _ _ a.words i

theorem afterRound_rnd (cfg : Config) {n k : Nat} {a : State} (hk : k < 48) (h : BeforeRound n k a) :
    (afterRound cfg ⟨k, hk⟩ a).rnd = BitVec.ofNat 8 (n + (k + 1)) := by
  rw [afterRound, emitByte_rnd, mixRound_rnd, h.rnd]
  exact (BitVec.ofNat_add (n + k) 1).symm

/-- A round before the last counts FIDX and RND up and feeds its byte back, so the next round finds its
own two rows. -/
theorem beforeRound_succ (cfg : Config) {n k : Nat} {a : State} (hk : k < 48) (hnext : k + 1 < 48)
    (h : BeforeRound n k a) : BeforeRound n (k + 1) (afterRound cfg ⟨k, hk⟩ a) := by
  have hlast : ¬ k = 47 := by omega
  refine ⟨?mode, ?fidx, ?row, afterRound_rnd cfg hk h⟩
  case mode => rw [afterRound, emitByte_mode, if_neg hlast, mixRound_mode, h.mode]
  case fidx =>
    have hindex := h.fidx
    have hone : (1 : BitVec 6).toNat = 1 := rfl
    rw [afterRound, emitByte_fidx, if_neg hlast, mixRound_fidx, BitVec.toNat_add_of_lt (by omega), hindex,
      hone]
  case row =>
    rw [afterRound, emitByte_fb, if_neg hlast, rowIndex?_zext9, emitByte_ob, feedbackRow_succ_set hk]

/-- Every round of the sequence is reached. -/
theorem exists_finRounds_beforeRound (cfg : Config) {s : State} (hs : AtFirstRound s) {k : Nat}
    (hk : k < 48) : ∃ a, finRounds cfg k s = .next a ∧ BeforeRound s.rnd.toNat k a := by
  induction k with
  | zero => exact ⟨s, rfl, beforeRound_zero hs⟩
  | succ k ih =>
    have hprev : k < 48 := Nat.lt_of_succ_lt hk
    obtain ⟨a, hrun, ha⟩ := ih hprev
    exact ⟨_, finRounds_succ_of_next hrun (finRound_of_beforeRound cfg hprev ha),
      beforeRound_succ cfg hprev hk ha⟩

/-- Settles O17: before each round the invariant gives its two rows, and round 47 ends the sequence. -/
theorem everyRoundUsesItsRows : Obligations.EveryRoundUsesItsRows := by
  refine fun cfg s hs => ⟨fun k hk => ?round, ?final⟩
  case round =>
    obtain ⟨a, hrun, ha⟩ := exists_finRounds_beforeRound cfg hs hk
    exact ⟨a, afterRound cfg ⟨k, hk⟩ a, hrun, finRound_of_beforeRound cfg hk ha, ha.mode,
      afterRound_words_getElem cfg hk ha⟩
  case final =>
    have hlast : 47 < 48 := by decide
    obtain ⟨a, hrun, ha⟩ := exists_finRounds_beforeRound cfg hs hlast
    exact ⟨afterRound cfg 47 a, finRounds_succ_of_next hrun (finRound_of_beforeRound cfg hlast ha),
      emitByte_mode cfg 47 _, afterRound_rnd cfg hlast ha⟩

end Sys2Proof.Machine
end

section
/-! The hardware reset as a step of the machine (70_reset_and_hazards.md R200): the step that takes it,
and the reset values that it leaves; O36. -/

namespace Sys2Proof.Machine

open Sys2Proof.Safety

/-- The hardware reset comes before everything (60_exceptions.md R176): no mode and no transaction
outstanding delays it. -/
theorem step_of_reset {s : State} {rest : List HostEvent} (hhost : s.host = .reset :: rest) :
    step s = .next (hardwareReset Config.machine { s with host := rest }) := by
  simp only [step, stepInstance, hhost]

theorem hardwareReset_hasResetValues (cfg : Config) (s : State) :
    HasResetValues cfg (hardwareReset cfg s) where
  words i := by simp
  rnd := hardwareReset_rnd cfg s
  fin := hardwareReset_fin cfg s
  mode := hardwareReset_mode cfg s
  fidx := hardwareReset_fidx cfg s
  fb := hardwareReset_fb cfg s
  ob j := by simp
  dvalid := hardwareReset_dvalid cfg s
  err := hardwareReset_err cfg s

/-- Settles O36: the step is the hardware reset, which writes the reset values, frees the port and leaves
the host's remaining events. -/
theorem hardwareResetOverridesEverything : Obligations.HardwareResetOverridesEverything :=
  fun s rest hhost =>
    have hvalues := hardwareReset_hasResetValues Config.machine { s with host := rest }
    ⟨_, step_of_reset hhost, hvalues, hardwareReset_port _ _, hardwareReset_host _ _⟩

end Sys2Proof.Machine
end

section
/-! The window's registers (20_memory.md R60), the decoder's two directions (30_encoding.md §1), assembly
errors (R88) and the platform (20_memory.md R70); O1, O4, O26, O49, O50 and O51. -/

namespace Sys2Proof

open Sys2Proof.Machine Sys2Proof.Safety

/-- Settles O1: the nine words are fixed, so the decoder is evaluated on each. -/
theorem specWordsDecodeAsListed : Obligations.SpecWordsDecodeAsListed := by
  refine ⟨?_, ?_, ?_, ?_, ?_, ?_, ?_, ?_, ?_⟩ <;> decide

/-- Settles O4: the three fields determine the word. -/
theorem decodeAndEncodeAgree : Obligations.DecodeAndEncodeAgree :=
  fun i v _ => decode_eq_instr_iff_eq_encode v i

namespace Machine

/-! ### No register outside R60's offsets -/

/-- The offsets at which a register can be read (R60). -/
theorem exists_reg_offset_eq_iff (off : Nat) :
    (∃ r : Reg, r.offset = off) ↔ off % 8 = 0 ∧ off ≠ 0x00 ∧ off < 0x80 := by
  constructor
  · rintro ⟨r, rfl⟩
    cases r with
    | status => decide
    | version => decide
    | round => decide
    | word i => simp only [Reg.offset]; omega
    | dout j => simp only [Reg.offset]; omega
  · rintro ⟨haligned, hcmd, hend⟩
    exact exists_reg_offset_eq haligned hcmd hend

theorem registerAt?_eq_none_iff (off : Nat) :
    registerAt? off = none ↔ off % 8 ≠ 0 ∨ off = 0 ∨ 0x80 ≤ off := by
  have hnone : registerAt? off = none ↔ ¬ ∃ r : Reg, r.offset = off := by
    rw [Option.eq_none_iff_forall_ne_some, not_exists]
    exact forall_congr' fun r => not_congr ((registerAt?_eq_some_iff r off).trans eq_comm)
  rw [hnone, exists_reg_offset_eq_iff]
  omega

/-- Settles O26: the offsets are the definition's, and every other offset has no register. -/
theorem registersStandAtTheirOffsets : Obligations.RegistersStandAtTheirOffsets :=
  ⟨rfl, rfl, rfl, fun _ => rfl, fun _ => rfl, registerAt?_eq_some_iff, registerAt?_eq_none_iff⟩

/-! ### Assembly errors -/

/-- Exactly the programs with an assembly error are refused (R88, log 16). -/
theorem assemble_eq_none_iff (p : List Stmt) : assemble p = none ↔ ∃ st ∈ p, AssemblyError st := by
  have hrefused : assemble p = none ↔ p.all Stmt.wellFormed = false := by simp [assemble]
  simp only [hrefused, List.all_eq_false, Bool.not_eq_true, stmt_wellFormed_eq_false_iff]

/-- Where every element has a result, each result is among those collected. -/
theorem exists_mem_of_mapM_eq_some {α β : Type} {f : α → Option β} {l : List α} {ys : List β}
    {x : α} (h : l.mapM f = some ys) (hx : x ∈ l) : ∃ y ∈ ys, f x = some y := by
  induction l generalizing ys with
  | nil => cases hx
  | cons a l ih =>
    obtain ⟨y, hy, zs, hzs, rfl⟩ : ∃ y, f a = some y ∧ ∃ zs, l.mapM f = some zs ∧ y :: zs = ys := by
      simpa [List.mapM_cons, Option.bind_eq_some_iff] using h
    rcases List.mem_cons.mp hx with rfl | hmem
    · exact ⟨y, List.mem_cons_self, hy⟩
    · obtain ⟨z, hz, hfz⟩ := ih hzs hmem
      exact ⟨z, List.mem_cons_of_mem y hz, hfz⟩

/-- A text is refused when one of its lines is no statement or an assembly error (R88, log 16). -/
theorem assembleText_eq_none {lines : List (List Char)} {line : List Char} (hline : line ∈ lines)
    (herror : ∀ ost, parseLine line = some ost → ∃ st, ost = some st ∧ AssemblyError st) :
    assembleText lines = none := by
  cases hparse : lines.mapM parseLine with
  | none => simp [assembleText, hparse]
  | some ss =>
    obtain ⟨ost, hmem, host⟩ := exists_mem_of_mapM_eq_some hparse hline
    obtain ⟨st, rfl, hst⟩ := herror ost host
    have hrefused : assemble (ss.filterMap id) = none :=
      (assemble_eq_none_iff _).mpr ⟨st, List.mem_filterMap.mpr ⟨some st, hmem, rfl⟩, hst⟩
    rw [assembleText, hparse]
    exact hrefused

/-- Settles O49: the check of a statement fails exactly on an assembly error. -/
theorem assemblyErrorNeverReachesTheBlock : Obligations.AssemblyErrorNeverReachesTheBlock := by
  refine ⟨assemble_eq_none_iff, fun lines line hline hnone => ?_,
    fun lines line st hline hst herror => ?_⟩
  · exact assembleText_eq_none hline fun ost host => by simp [hnone] at host
  · exact assembleText_eq_none hline fun ost host => ⟨st, by simpa [hst] using host.symm, herror⟩

/-! ### The platform -/

/-- A step at `k` replaces the state there by the next one, and no other (R70). -/
theorem stepAt_eq_next_iff (k : Nat) (p q : Platform) :
    p.stepAt k = .next q ↔
      (p.instances[k]? = none ∧ q = p) ∨
      ∃ s t, p.instances[k]? = some s ∧ step s = .next t ∧
        q = { instances := p.instances.set k t } := by
  unfold Platform.stepAt
  cases p.instances[k]? with
  | none => simp [eq_comm]
  | some s => cases hstep : step s <;> simp [hstep, eq_comm]

/-- Settles O50: each step reads and writes its own entry of the list, and writes at two places
commute. -/
theorem instancesNeverObserveEachOther : Obligations.InstancesNeverObserveEachOther := by
  intro j k p q hjk hk
  rcases (stepAt_eq_next_iff k p q).mp hk with ⟨hnone, rfl⟩ | ⟨s, t, hs, hst, rfl⟩
  · refine ⟨rfl, fun r hj => ⟨r, hj, (stepAt_eq_next_iff k r r).mpr (.inl ⟨?_, rfl⟩)⟩⟩
    rcases (stepAt_eq_next_iff j q r).mp hj with ⟨-, rfl⟩ | ⟨a, b, -, -, rfl⟩
    · exact hnone
    · simpa [List.getElem?_set_ne hjk] using hnone
  · refine ⟨List.getElem?_set_ne hjk.symm, fun r hj => ?_⟩
    rcases (stepAt_eq_next_iff j p r).mp hj with ⟨hnone, rfl⟩ | ⟨a, b, ha, hab, rfl⟩
    · refine ⟨_, (stepAt_eq_next_iff j _ _).mpr (.inl ⟨?_, rfl⟩), hk⟩
      simpa [List.getElem?_set_ne hjk.symm] using hnone
    · refine ⟨{ instances := (p.instances.set k t).set j b },
        (stepAt_eq_next_iff j _ _).mpr (.inr ⟨a, b, ?_, hab, rfl⟩),
        (stepAt_eq_next_iff k _ _).mpr (.inr ⟨s, t, ?_, hst, ?_⟩)⟩
      · simpa [List.getElem?_set_ne hjk.symm] using ha
      · simpa [List.getElem?_set_ne hjk] using hs
      · rw [List.set_comm _ _ hjk]

/-- Settles O51: the window of the lowest number that holds the address is reached, or none is. -/
theorem platformAccessReachesItsInstanceOnly : Obligations.PlatformAccessReachesItsInstanceOnly := by
  intro addr k width kind data p
  refine ⟨fun hk hbase hend hlow => ?_, fun hnone => ?_⟩
  · have hreached : instanceAt? addr = some k := instanceAt?_eq_some hk ⟨hbase, hend⟩ hlow
    simp only [Platform.access, hreached]
    refine ⟨fun j hj => List.getElem?_modify_ne _ _ hj.symm, fun s hs => ?_⟩
    refine ⟨addr - Config.base k, by omega, ?_⟩
    rw [List.getElem?_modify_eq, hs]
    rfl
  · simp only [Platform.access, (instanceAt?_eq_none_iff addr).mpr hnone]

end Machine

end Sys2Proof
end

section
/-! What each command writes (41_update.md, 42_finalize.md, 43_control.md), how a step brings it about
(60_exceptions.md R175), the reset values (10_state.md R39), and the steps of a poll and of an idle
block; O5, O7 to O10, O24, O33 to O35 and O37. -/

namespace Sys2Proof.Machine

open Sys2Proof.Safety

/-! ### The commands -/

/-- RESET leaves the reset state as it is (43_control.md, corner cases). -/
theorem commandReset_reset : commandReset Config.machine State.reset = State.reset := rfl

/-- Settles O7: RESET has no state check. -/
theorem resetCommandCompletes : Obligations.ResetCommandCompletes :=
  ⟨execReset_eq, (execReset_eq State.reset).trans (congrArg _ commandReset_reset)⟩

/-- Settles O8: the words of the mixing round are, by definition, its six lanes. -/
theorem consumeCompletes : Obligations.ConsumeCompletes :=
  fun b _ hfin => exec_consume_of_not_fin b hfin

/-- DIGEST on a block that is not finished starts the sequencer (42_finalize.md R130). -/
theorem exec_digest_of_not_fin {s : State} (hfin : s.fin = false) :
    exec .digest s = .next (startFinalization s) := by
  rcases execDigest_cases s with ⟨hset, -⟩ | ⟨-, hstart⟩
  · exact absurd hset (by simp [hfin])
  · exact hstart

/-- Settles O9: the sequencer's first round, and nothing else. -/
theorem digestCompletes : Obligations.DigestCompletes := fun _ hfin => exec_digest_of_not_fin hfin

/-- A finished block rejects every command but RESET (60_exceptions.md R171). -/
theorem exec_of_fin {i : Instr} {s : State} (hfin : s.fin = true) (hi : i ≠ .reset) :
    exec i s = .next { s with err := errAfter 2 s.err } := by
  rcases exec_cases i s with ⟨rfl, -⟩ | ⟨-, -, hraise⟩ | ⟨b, -, hnot, -⟩ | ⟨-, hnot, -⟩
  · exact absurd rfl hi
  · rw [hraise, raise_eq]
    rfl
  · exact absurd hfin (by simp [hnot])
  · exact absurd hfin (by simp [hnot])

/-- Settles O10: both are rejected alike. -/
theorem finishedInstanceRejectsConsumeAndDigest : Obligations.FinishedInstanceRejectsConsumeAndDigest :=
  fun _ hfin => ⟨fun _ => exec_of_fin hfin (by simp), exec_of_fin hfin (by simp)⟩

/-! ### The step that accepts a command -/

/-- A CMD write presented to an IDLE block is answered ok and executed (60_exceptions.md R175). -/
theorem present_cmdWrite_of_idle {s : State} {v : Word} {i : Instr} (hidle : s.mode = .idle)
    (hdecode : decode v = .instr i) :
    present (HostAccess.cmdWrite v) s = exec i (respond .writeOk s) := by
  rw [present_of_not_held (target?_cmdWrite v) (.inl hidle)]
  simp only [complete, executeCommand, hdecode]

/-- An IDLE block with no event from the host takes up the access outstanding (70_reset_and_hazards.md
R210). -/
theorem step_of_held {s : State} {a : HostAccess} (hidle : s.mode = .idle) (hport : s.port = some a)
    (hhost : s.host = []) : step s = present a { s with port := none } := by
  simp only [step, stepInstance, hhost, advance, hidle, hport]

/-- Settles O5: a newly issued write and a held one are presented alike. -/
theorem stepRunsTheDecodedCommand : Obligations.StepRunsTheDecodedCommand := by
  refine ⟨fun s v i rest hidle hport hhost hdecode _ => ?_, fun s v i hidle hport hhost hdecode _ => ?_⟩
  · rw [step_of_issue hport hhost]
    exact present_cmdWrite_of_idle (s := { s with host := rest }) hidle hdecode
  · rw [step_of_held hidle hport hhost]
    exact present_cmdWrite_of_idle (s := { s with port := none }) hidle hdecode

/-! ### The reset values -/

/-- RESET on an IDLE block leaves the reset values: it does not write MODE, which is IDLE (log 19). -/
theorem commandReset_hasResetValues (cfg : Config) {s : State} (hidle : s.mode = .idle) :
    HasResetValues cfg (commandReset cfg s) where
  words i := by simp
  rnd := rfl
  fin := rfl
  mode := hidle
  fidx := rfl
  fb := rfl
  ob j := by simp
  dvalid := rfl
  err := rfl

/-- Settles O35: the boot state, the hardware reset and RESET each leave the reset values. -/
theorem bothResetsWriteTheResetValues : Obligations.BothResetsWriteTheResetValues :=
  ⟨resetOf_hasResetValues Config.machine,
    fun _ _ hhost => ⟨_, step_of_reset hhost, hardwareReset_hasResetValues _ _⟩,
    fun s hidle => ⟨_, execReset_eq s, commandReset_hasResetValues _ hidle⟩⟩

/-- Settles O24: both resets write the same value to each item, and RESET finds MODE IDLE. -/
theorem resetCommandEqualsHardwareReset : Obligations.ResetCommandEqualsHardwareReset := by
  intro s r t rest hidle hexec hhost
  cases (execReset_eq s).symm.trans hexec
  exact ⟨_, step_of_reset hhost, by simp [hidle]⟩

/-- Settles O37: the sequencer and FIN by their lemmas; ERR is 0 and the port free. -/
theorem resetStateMeetsTheInvariant : Obligations.ResetStateMeetsTheInvariant :=
  fun l => ⟨sequencerOk_reset l, finishedOk_reset l, Nat.zero_le 3, rfl⟩

/-! ### Polls and waiting -/

/-- A poll reads STATUS once (30_encoding.md R91, log 15). -/
theorem step_of_poll {s : State} {rest : List HostEvent} (hport : s.port = none)
    (hhost : s.host = .poll false :: rest) : step s = .next (pollStatus rest s) := by
  simp only [step, stepInstance, hhost, hport]
  rfl

/-- Settles O33: BUSY is bit 0 of the word that the poll reads, and decides whether it reads again. -/
theorem waitReadsStatusUntilNotBusy : Obligations.WaitReadsStatusUntilNotBusy := by
  intro s rest hport
  obtain ⟨hbit, -⟩ := statusWord_flagBits Config.machine s
  refine ⟨fun hhost => ⟨fun hidle => ?_, fun hbusy => ?_⟩, fun hhost => ?_⟩
  · have hclear : busy s = false := by simp [busy, hidle]
    refine ⟨hbit.trans hclear, ?_⟩
    rw [step_of_poll hport hhost, pollStatus, hclear]
    rfl
  · have hset : busy s = true := (busy_eq_true_iff s).mpr hbusy
    refine ⟨hbit.trans hset, ?_⟩
    rw [step_of_poll hport hhost, pollStatus, hset]
    rfl
  · simp only [step, stepInstance, hhost, hport]
    rfl

/-- Settles O34: with no event, no access outstanding and no sequence there is nothing to do. -/
theorem idleBlockWaits : Obligations.IdleBlockWaits := by
  intro s hidle hport hhost
  simp only [step, stepInstance, hhost, advance, hidle, hport]

end Sys2Proof.Machine
end

section
/-! What one step does to the whole state, said once for every step that answers a next state; from it the
writers of each item of state, the invariant and the hold of an access; O16, O21, O32, O38, O39 and O41 to
O45. -/

namespace Sys2Proof.Machine

open Sys2Proof.Safety

/-! ### The effect of a step -/

/-- The state in which a step from `s` executes the command it accepts: the event or the held access is
taken, and the write is answered ok (60_exceptions.md R173, R175). -/
def State.commandTaken (s : State) : State :=
  respond .writeOk { s with host := hostAfter s, port := none }

/-- Everything that a step from `s` to `t` can do (00_scope.md R13). -/
inductive StepEffect (s t : State) : Prop
  /-- the hardware reset (70_reset_and_hazards.md R200) -/
  | hardwareReset (hr : resets s = true)
      (ht : t = hardwareReset Config.machine { s with host := hostAfter s })
  /-- an accepted RESET (43_control.md R150) -/
  | commandReset (hm : s.mode = .idle) (ha : acceptedCommand s = some .reset)
      (ht : t = commandReset Config.machine s.commandTaken)
  /-- an accepted CONSUME (41_update.md R120) -/
  | consume (b : Byte) (ha : acceptedCommand s = some (.consume b))
      (ht : t = mixRound Config.machine (rowOfByte b) s.commandTaken)
  /-- an accepted DIGEST (42_finalize.md R130) -/
  | digest (ha : acceptedCommand s = some .digest) (ht : t = startFinalization s.commandTaken)
  /-- a round of the engine (42_finalize.md R133) -/
  | round (he : engineMoves s = true) (n : Fin 257) (i : Fin 48) (hn : rowIndex? s.fb = some n)
      (hi : selectorIndex? s.fidx = some i)
      (ht : t = emitByte Config.machine i (mixRound Config.machine n { s with host := hostAfter s }))
  /-- a step that touches only the error field and the host's side: an error, an access held or read, a
  poll, or a wait (20_memory.md R62, 60_exceptions.md R172) -/
  | outside (hr : resets s = false) (he : engineMoves s = false)
      (ht : t = { s with err := t.err, port := t.port, host := hostAfter s, resp := t.resp })
      (herr : t.err = s.err ∨ s.err = 0 ∧ ∃ e, t.err = errorCode e)
      (hport : ∀ a, t.port = some a → holdable a = true)

/-- The error field after `raise` (60_exceptions.md R172). -/
theorem raise_err_cases (e : ErrorKind) (s : State) :
    (raise e s).err = s.err ∨ s.err = 0 ∧ ∃ e', (raise e s).err = errorCode e' := by
  rw [raise_err]
  split
  next h => exact .inr ⟨h, e, rfl⟩
  next => exact .inl rfl

/-- An access presented with the port free and the events of the next state left. -/
abbrev State.presented (s : State) : State := { s with host := hostAfter s, port := none }

/-- An error raised with a response is a step outside the sequence. -/
theorem StepEffect.of_raise {s : State} {e : ErrorKind} {r : Response} (hr : resets s = false)
    (he : engineMoves s = false) : StepEffect s (raise e (respond r s.presented)) := by
  refine .outside hr he ?_ (raise_err_cases e (respond r s.presented)) (by simp)
  rw [raise_eq]
  rfl

theorem StepEffect.of_exec {s t : State} {i : Instr} (hm : s.mode = .idle) (hr : resets s = false)
    (he : engineMoves s = false) (ha : acceptedCommand s = some i)
    (h : exec i s.commandTaken = .next t) : StepEffect s t := by
  rcases exec_cases i s.commandTaken with ⟨rfl, hx⟩ | ⟨-, -, hx⟩ | ⟨b, rfl, -, hx⟩ | ⟨rfl, -, hx⟩ <;>
    cases hx.symm.trans h
  · exact .commandReset hm ha rfl
  · exact .of_raise hr he
  · exact .consume b ha rfl
  · exact .digest ha rfl

theorem StepEffect.of_finRound {s t : State} (he : engineMoves s = true)
    (h : finRound Config.machine { s with host := hostAfter s } = .next t) : StepEffect s t := by
  obtain ⟨n, i, hn, hi, ht⟩ := finRound_next h
  exact .round he n i hn hi ht

theorem StepEffect.of_present {s t : State} {a : HostAccess} (hr : resets s = false)
    (he : engineMoves s = false) (ha : s.mode = .idle → acceptedAccess s = some a)
    (h : present a s.presented = .next t) : StepEffect s t := by
  have hcase := present_cases a s.presented
  generalize present a s.presented = o at hcase h
  cases hcase with
  | accessError => cases h; exact .of_raise hr he
  | held g hg _ hh =>
    cases h
    refine .outside hr he rfl (.inl rfl) fun b hb => ?_
    cases hb
    simpa only [holdable, hg] using hh
  | read => cases h; exact .outside hr he rfl (.inl rfl) (by simp)
  | illegalWord => cases h; exact .of_raise hr he
  | command v i hg hm hd => exact .of_exec hm hr he (acceptedCommand_of_access (ha hm) hg hd) h

theorem stepEffect_of_step {s t : State} (h : step s = .next t) : StepEffect s t := by
  have hcase := step_cases s
  generalize step s = o at hcase h
  cases hcase with
  | reset hr => cases h; exact .hardwareReset hr rfl
  | engine _ _ he => exact .of_finRound he h
  | access a hr he _ ha => exact .of_present hr he ha h
  | poll rest hh hp he hafter =>
    cases h
    refine .outside (by simp [resets, hh]) he ?_ (.inl rfl) (by simp [hp])
    simp [pollStatus, respond, hafter, hp]
  | wait hr hm hp =>
    cases h
    exact .outside hr (by simp [engineMoves, hm]) rfl (.inl rfl) (by simp [hp])

/-! ### The writers of each item -/

/-- Settles O41: of the steps that are no reset, a mixing round alone writes them. -/
theorem wordsAndRoundHaveOnlyTheirWriters : Obligations.WordsAndRoundHaveOnlyTheirWriters := by
  intro s t h hreset
  cases stepEffect_of_step h with
  | hardwareReset hr => exact absurd (.inl hr) hreset
  | commandReset _ ha => exact absurd (.inr ha) hreset
  | consume b ha ht => exact .inr ⟨.inl ⟨b, ha⟩, by rw [ht]; rfl⟩
  | digest _ ht => exact .inl ⟨by rw [ht]; rfl, by rw [ht]; rfl⟩
  | round he n i _ _ ht => exact .inr ⟨.inr he, by simp [ht]⟩
  | outside _ _ ht => exact .inl ⟨by rw [ht], by rw [ht]⟩

/-- Settles O44: the round with index FIDX writes byte FIDX. -/
theorem outputBufferHasOnlyItsWriters : Obligations.OutputBufferHasOnlyItsWriters := by
  intro s t j h hreset hround
  cases stepEffect_of_step h with
  | hardwareReset hr => exact absurd (.inl hr) hreset
  | commandReset _ ha => exact absurd (.inr ha) hreset
  | consume _ _ ht => rw [ht]; rfl
  | digest _ ht => rw [ht]; rfl
  | outside _ _ ht => rw [ht]
  | round he n i _ hi ht =>
    have hother : i.val ≠ j.val := fun hij => hround ⟨he, (selectorIndex?_toNat hi).trans hij⟩
    rw [ht, emitByte_ob, mixRound_ob]
    exact Vector.getElem_set_ne i.isLt j.isLt hother

/-- Settles O45: only a step outside the sequence raises an error, and only where none is recorded. -/
theorem firstErrorIsKeptUntilReset : Obligations.FirstErrorIsKeptUntilReset := by
  intro s t h hreset
  have hcases : t.err = s.err ∨ s.err = 0 ∧ ∃ e, t.err = errorCode e := by
    cases stepEffect_of_step h with
    | hardwareReset hr => exact absurd (.inl hr) hreset
    | commandReset _ ha => exact absurd (.inr ha) hreset
    | consume _ _ ht => exact .inl (by rw [ht]; rfl)
    | digest _ ht => exact .inl (by rw [ht]; rfl)
    | round _ n i _ _ ht => exact .inl (by simp [ht])
    | outside _ _ _ herr => exact herr
  rcases hcases with hkept | ⟨hzero, e, he⟩
  · exact ⟨fun _ => hkept, fun hz => .inl (hkept.trans hz)⟩
  · refine ⟨fun hne => absurd hzero hne, fun _ => .inr ?_⟩
    rw [he]
    cases e <;> simp [errorCode]

/-- FIDX as a number names its value. -/
theorem fidx_eq_47 {i : BitVec 6} (h : i.toNat = 47) : i = 47 := BitVec.eq_of_toNat_eq h

/-- Settles O42: of the cases of the control registers the 48th round alone sets FIN, and a DIGEST starts
only where FIN is 0. -/
theorem finishedFlagHasOnlyItsWriters : Obligations.FinishedFlagHasOnlyItsWriters := by
  intro s t h hreset
  cases controlCase_of_step h with
  | reset hw => exact absurd hw hreset
  | kept ht => exact .inl (congrArg Control.fin ht)
  | started _ hfin ht => exact .inl ((congrArg Control.fin ht).trans hfin.symm)
  | round _ _ _ b ht => exact .inl (congrArg Control.fin ht)
  | finished he _ hi ht =>
    have hfin : t.fin = (s.fin || Config.machine.lockOnDigest) := congrArg Control.fin ht
    cases hlock : Config.machine.lockOnDigest with
    | false => exact .inl (by simp [hfin, hlock])
    | true => exact .inr ⟨by simp [hfin, hlock], he, fidx_eq_47 hi, rfl⟩

/-- Settles O43: of the cases of the control registers, DIGEST and the 48th round write MODE and DVALID. -/
theorem modeAndDigestValidHaveOnlyTheirWriters :
    Obligations.ModeAndDigestValidHaveOnlyTheirWriters := by
  intro s t h hreset
  cases controlCase_of_step h with
  | reset hw => exact absurd hw hreset
  | kept ht => exact .inl ⟨congrArg Control.mode ht, congrArg Control.dvalid ht⟩
  | started ha _ ht => exact .inr (.inl ⟨ha, congrArg Control.mode ht, congrArg Control.dvalid ht⟩)
  | round _ hm _ b ht =>
    exact .inl ⟨(congrArg Control.mode ht).trans hm.symm, congrArg Control.dvalid ht⟩
  | finished he _ hi ht =>
    exact .inr (.inr ⟨he, fidx_eq_47 hi, congrArg Control.mode ht, congrArg Control.dvalid ht⟩)

/-! ### The invariant -/

/-- The codes of R170 are at most 3. -/
theorem errorCode_toNat_le (e : ErrorKind) : (errorCode e).toNat ≤ 3 := by
  cases e <;> decide

theorem step_keeps_errorOk {s t : State} (hs : ErrorOk s) (h : step s = .next t) : ErrorOk t := by
  cases stepEffect_of_step h with
  | hardwareReset _ ht => simp [ErrorOk, ht]
  | commandReset _ _ ht => simp [ErrorOk, ht]
  | consume _ _ ht => rw [ht]; exact hs
  | digest _ ht => rw [ht]; exact hs
  | round _ n i _ _ ht => simpa [ErrorOk, ht] using hs
  | outside _ _ _ herr =>
    rcases herr with hkept | ⟨-, e, he⟩
    · exact (congrArg BitVec.toNat hkept).trans_le hs
    · exact (congrArg BitVec.toNat he).trans_le (errorCode_toNat_le e)

/-- A round leaves the port as it is, and every other step that leaves an access outstanding holds it by
R210. -/
theorem step_keeps_portOk {s t : State} (hs : PortOk s) (h : step s = .next t) : PortOk t := by
  cases stepEffect_of_step h with
  | hardwareReset _ ht => simp [PortOk, ht]
  | commandReset _ _ ht => rw [ht]; rfl
  | consume _ _ ht => rw [ht]; rfl
  | digest _ ht => rw [ht]; rfl
  | round _ n i _ _ ht => simpa [PortOk, ht] using hs
  | outside _ _ _ _ hport => exact (Option.all_eq_true _ _).mpr hport

/-- Settles O38: each of the four parts is kept by itself. -/
theorem everyStepKeepsTheInvariant : Obligations.EveryStepKeepsTheInvariant :=
  fun _ _ ⟨hsequencer, hfinished, herror, hport⟩ h =>
    ⟨step_keeps_sequencerOk hsequencer h, step_keeps_finishedOk hfinished h, step_keeps_errorOk herror h,
      step_keeps_portOk hport h⟩

/-! ### No step stops -/

theorem exec_answers (i : Instr) (s : State) : ∃ t, exec i s = .next t := by
  rcases exec_cases i s with ⟨-, h⟩ | ⟨-, -, h⟩ | ⟨b, -, -, h⟩ | ⟨-, -, h⟩ <;> exact ⟨_, h⟩

theorem present_answers (a : HostAccess) (s : State) : ∃ t, present a s = .next t := by
  have hcase := present_cases a s
  generalize present a s = o at hcase
  cases hcase with
  | command v i => exact exec_answers i _
  | _ => exact ⟨_, rfl⟩

/-- Only the engine's step could stop. -/
theorem step_answers {s : State}
    (hs : engineMoves s = true → ∃ t, finRound Config.machine { s with host := hostAfter s } = .next t) :
    ∃ t, step s = .next t := by
  have hcase := step_cases s
  generalize step s = o at hcase
  cases hcase with
  | engine _ _ he => exact hs he
  | access a => exact present_answers a _
  | _ => exact ⟨_, rfl⟩

/-- Only a FINALIZING block has engine steps (42_finalize.md R132). -/
theorem mode_of_engineMoves {s : State} (he : engineMoves s = true) : s.mode = .finalizing := by
  cases hm : s.mode with
  | finalizing => rfl
  | idle => simp [engineMoves, hm] at he

/-- Settles O39: the invariant keeps the indices of the engine's step in range. -/
theorem theMachineNeverStops : Obligations.TheMachineNeverStops := by
  rintro s ⟨⟨-, hfinalizing⟩, -⟩
  refine step_answers fun he => ?_
  obtain ⟨hfidx, hfb, -⟩ := hfinalizing (mode_of_engineMoves he)
  exact ⟨_, finRound_of_range Config.machine { s with host := hostAfter s } (Nat.lt_succ_of_le hfb)
    (Nat.lt_succ_of_le hfidx)⟩

/-! ### A round of the engine -/

/-- Settles O16: the round in range is `emitByte` after `mixRound`, whose fields are known; its last
index ends the sequence. -/
theorem finalizationRoundCompletes : Obligations.FinalizationRoundCompletes := by
  intro s hi hb he
  have hmode := mode_of_engineMoves he
  refine ⟨_, (step_of_engineMoves he).trans
    (finRound_of_range Config.machine { s with host := hostAfter s } hb hi), ?words, ?rnd, ?byte, ?bytes,
    fun hlast => ?last, fun hnot => ?next, ?frame⟩
  case words =>
    intro i
    rw [emitByte_words, mixRound_words]
    exact roundWords_getElem ..
  case rnd => rw [emitByte_rnd, mixRound_rnd]
  case byte => rw [emitByte_ob, emitByte_words]; exact Vector.getElem_set_self hi
  case bytes =>
    intro j hj
    rw [emitByte_ob, mixRound_ob]
    exact Vector.getElem_set_ne hi j.isLt hj.symm
  case last => simp [hlast]
  case next =>
    have hindex : s.fidx.toNat ≠ 47 := fun h => hnot (fidx_eq_47 h)
    simp [hindex, hmode, zext9]
  case frame => simp

/-! ### A held access -/

/-- While an access is outstanding, a FINALIZING block's steps are the engine's (log 13). -/
theorem engineMoves_of_held {s : State} {a : HostAccess} (hport : s.port = some a)
    (hreset : resets s = false) (hmode : s.mode = .finalizing) : engineMoves s = true := by
  cases hhost : s.host with
  | nil => simp [engineMoves, hmode, hhost]
  | cons e rest =>
    cases e with
    | reset => simp [resets, hhost] at hreset
    | issue b => simp [engineMoves, hmode, hhost, hport]
    | quiet => simp [engineMoves, hmode, hhost]
    | poll sent => cases sent <;> simp [engineMoves, hmode, hhost, hport]

/-- Settles O32: the round keeps the port, and an IDLE block presents the access as a new one; the host's
own next event waits, but for a silent step, which is taken (log 13). -/
theorem heldAccessProceedsAsIfIssuedAfterwards :
    Obligations.HeldAccessProceedsAsIfIssuedAfterwards := by
  intro s a hport hreset
  refine ⟨fun hm t h => ?kept, fun hm hloud => ?loud, fun hm rest hhost => ?quiet⟩
  case kept =>
    rw [step_of_engineMoves (engineMoves_of_held hport hreset hm)] at h
    obtain ⟨n, i, -, -, rfl⟩ := finRound_next h
    simpa using hport
  case loud =>
    have hadvance : step s = advance s := by
      cases hhost : s.host with
      | nil => simp only [step, stepInstance, hhost]
      | cons e rest =>
        cases e with
        | issue b => simp only [step, stepInstance, hhost, hport]
        | quiet => exact absurd hhost (hloud rest)
        | poll sent => simp only [step, stepInstance, hhost, hport]
        | reset => simp [resets, hhost] at hreset
    rw [step_of_issue (s := { s with port := none, host := .issue a :: s.host }) rfl rfl, hadvance]
    simp only [advance, hm, hport]
  case quiet =>
    rw [step_of_issue (s := { s with port := none, host := .issue a :: rest }) rfl rfl]
    simp only [step, stepInstance, hhost, advance, hm, hport]

end Sys2Proof.Machine

namespace Sys2Proof.Safety

open Sys2Proof.Machine

/-! ### What the host sees of a running sequence -/


variable {s t s' t' : State}

theorem SameButDigest.hostAfter_eq (h : SameButDigest s t) : hostAfter s = hostAfter t := by
  have hbusy : busy s = busy t := by rw [busy, busy, h.mode]
  simp only [hostAfter, h.host, h.port, hbusy]

theorem SameButDigest.engineMoves_eq (h : SameButDigest s t) : engineMoves s = engineMoves t := by
  simp only [engineMoves, h.mode, h.host, h.port]

/-- STATUS shows nothing of what the sequence computes (10_state.md R33). -/
theorem SameButDigest.statusWord_eq (h : SameButDigest s t) (cfg : Config) :
    statusWord cfg s = statusWord cfg t := by
  have hbusy : busy s = busy t := by rw [busy, busy, h.mode]
  simp only [statusWord, h.err, h.fin, h.dvalid, hbusy]

theorem SameButDigest.withHost (h : SameButDigest s t) (rest : List HostEvent) :
    SameButDigest { s with host := rest } { t with host := rest } :=
  { h with host := rfl }

theorem SameButDigest.of_respond (h : SameButDigest s t) (r : Response) :
    SameButDigest (respond r s) (respond r t) :=
  { h with resp := rfl }

theorem SameButDigest.of_raise (h : SameButDigest s t) (e : ErrorKind) :
    SameButDigest (raise e s) (raise e t) := by
  rw [raise_eq, raise_eq]
  exact { h with err := by simp only [h.err] }

/-- A register that is never held shows nothing of what the sequence computes (20_memory.md R60). -/
theorem SameButDigest.readRegister_eq (h : SameButDigest s t) {r : Reg}
    (hr : (Target.register r).heldWhileBusy = false) (cfg : Config) :
    readRegister cfg r s = readRegister cfg r t := by
  cases r with
  | status => exact h.statusWord_eq cfg
  | version => rfl
  | round => cases hr
  | word i => cases hr
  | dout j => cases hr

/-- The hardware reset treats the sequence as it treats nothing else: it overwrites it. -/
theorem SameButDigest.of_hardwareReset (h : SameButDigest s t) :
    SameButDigest (hardwareReset Config.machine s) (hardwareReset Config.machine t) := by
  have hheld : (discardHeld s).resp = (discardHeld t).resp ∧
      (discardHeld s).draws = (discardHeld t).draws := by
    unfold discardHeld
    rw [h.port]
    cases t.port with
    | none => exact ⟨h.resp, h.draws⟩
    | some a => simp only [h.draws, and_self]
  obtain ⟨hresp, hdraws⟩ := hheld
  exact ⟨by simp, by simp, by simp, by simp, by simp, by simp, by simp [h.host], hresp, hdraws⟩

/-- Presenting an access to a FINALIZING block: an error, a hold, or a read that shows nothing of the
sequence. -/
theorem SameButDigest.of_present (h : SameButDigest s t) (hm : s.mode = .finalizing) {a : HostAccess}
    (hs : present a s = .next s') (ht : present a t = .next t') : SameButDigest s' t' := by
  have hmt : t.mode = .finalizing := h.mode.symm.trans hm
  have hmode : ¬ t.mode = .idle := by simp [hmt]
  cases hg : target? a with
  | none =>
    simp only [present, hg] at hs ht
    cases hs
    cases ht
    exact (h.of_respond _).of_raise _
  | some g =>
    cases hheld : g.heldWhileBusy with
    | true =>
      cases (present_of_held hg hm hheld).symm.trans hs
      cases (present_of_held hg hmt hheld).symm.trans ht
      exact { h with port := rfl }
    | false =>
      rw [present_of_not_held hg (.inr hheld)] at hs ht
      cases g with
      | command v => cases hheld
      | register r =>
        cases hs
        cases ht
        rw [h.readRegister_eq hheld]
        exact h.of_respond _

/-- The engine's step counts and ends the sequence by FIDX alone. -/
theorem SameButDigest.of_finRound (h : SameButDigest s t)
    (hs : finRound Config.machine s = .next s') (ht : finRound Config.machine t = .next t') :
    SameButDigest s' t' := by
  obtain ⟨n, i, -, hi, rfl⟩ := finRound_next hs
  obtain ⟨m, j, -, hj, rfl⟩ := finRound_next ht
  obtain rfl : i = j := Option.some.inj (hi.symm.trans (h.fidx ▸ hj))
  exact ⟨by simp [h.fin], by simp [h.mode], by simp [h.fidx], by simp [h.dvalid], by simp [h.err],
    by simp [h.port], by simp [h.host], by simp [h.resp], by simp [h.draws]⟩

end Sys2Proof.Safety

namespace Sys2Proof.Machine

open Sys2Proof.Safety

/-- What a FINALIZING block's step is when it is not the engine's. -/
theorem host_of_not_engineMoves {s : State} (hm : s.mode = .finalizing) (he : engineMoves s = false) :
    (∃ rest, s.host = .reset :: rest) ∨ (∃ a rest, s.port = none ∧ s.host = .issue a :: rest) ∨
      ∃ rest, s.port = none ∧ s.host = .poll false :: rest := by
  cases hhost : s.host with
  | nil => simp [engineMoves, hm, hhost] at he
  | cons e rest =>
    cases e with
    | reset => exact .inl ⟨rest, rfl⟩
    | quiet => simp [engineMoves, hm, hhost] at he
    | issue a =>
      cases hport : s.port with
      | none => exact .inr (.inl ⟨a, rest, rfl, rfl⟩)
      | some b => simp [engineMoves, hm, hhost, hport] at he
    | poll sent =>
      cases hport : s.port with
      | some b => cases sent <;> simp [engineMoves, hm, hhost, hport] at he
      | none =>
        cases sent with
        | true => simp [engineMoves, hm, hhost] at he
        | false => exact .inr (.inr ⟨rest, rfl, rfl⟩)

/-- Settles O21: the two states take the same kind of step, and none of the kinds lets anything of the
sequence out. -/
theorem hostSeesNothingOfTheRunningSequence : Obligations.HostSeesNothingOfTheRunningSequence := by
  intro s t s' t' hm h hs ht
  cases he : engineMoves s with
  | true =>
    rw [step_of_engineMoves he] at hs
    rw [step_of_engineMoves (h.engineMoves_eq.symm.trans he), ← h.hostAfter_eq] at ht
    exact (h.withHost _).of_finRound hs ht
  | false =>
    rcases host_of_not_engineMoves hm he with ⟨rest, hh⟩ | ⟨a, rest, hp, hh⟩ | ⟨rest, hp, hh⟩
    · cases (step_of_reset hh).symm.trans hs
      cases (step_of_reset (h.host.symm.trans hh)).symm.trans ht
      exact (h.withHost rest).of_hardwareReset
    · rw [step_of_issue hp hh] at hs
      rw [step_of_issue (h.port.symm.trans hp) (h.host.symm.trans hh)] at ht
      exact (h.withHost rest).of_present hm hs ht
    · cases (step_of_poll hp hh).symm.trans hs
      cases (step_of_poll (h.port.symm.trans hp) (h.host.symm.trans hh)).symm.trans ht
      have hbusy : busy s = busy t := by rw [busy, busy, h.mode]
      rw [pollStatus, pollStatus, h.statusWord_eq, hbusy]
      exact (h.withHost _).of_respond _

end Sys2Proof.Machine
end

section
/-! The 48 rounds against the source's loop (42_finalize.md R133, R134): before round `k` the sequence holds
what the loop holds before its iteration `k`, and after round 47 it holds the digest; O18. -/

namespace Sys2Proof.Machine

open Sys2Proof.Safety

/-! ### The source's loop, iteration by iteration -/

/-- The source's loop before its iteration `k`. -/
def sourceLoop (cfg : Config) (w : Vector Word 6) (n : BitVec 8) (k : Nat) : DigestLoop :=
  ((List.finRange 48).take k).foldl (DigestLoop.iterate cfg) (DigestLoop.start w n)

theorem sourceLoop_succ (cfg : Config) (w : Vector Word 6) (n : BitVec 8) {k : Nat} (hk : k < 48) :
    sourceLoop cfg w n (k + 1) = DigestLoop.iterate cfg (sourceLoop cfg w n k) ⟨k, hk⟩ := by
  have htake : (List.finRange 48).take (k + 1) = (List.finRange 48).take k ++ [⟨k, hk⟩] := by
    rw [List.take_succ_eq_append_getElem (by simpa using hk), List.getElem_finRange]
    rfl
  rw [sourceLoop, htake, List.foldl_append]
  rfl

theorem sourceLoop_48 (cfg : Config) (w : Vector Word 6) (n : BitVec 8) :
    sourceLoop cfg w n 48 = sourceDigest cfg w n := by
  rw [sourceLoop, List.take_of_length_le (by simp), sourceDigest]

/-- The loop adds 1 to the round in each iteration. -/
theorem sourceLoop_round (cfg : Config) (w : Vector Word 6) (n : BitVec 8) {k : Nat} (hk : k ≤ 48) :
    (sourceLoop cfg w n k).round = n + BitVec.ofNat 8 k := by
  induction k with
  | zero => exact (BitVec.add_zero n).symm
  | succ k ih =>
    rw [sourceLoop_succ cfg w n hk, BitVec.ofNat_add, ← BitVec.add_assoc, ← ih (Nat.le_of_succ_le hk)]
    rfl

/-! ### The state beside the loop -/

/-- The state holds what the loop `l` holds before iteration `k`: the digest state, the row to come and the
bytes emitted so far. -/
structure HoldsLoop (l : DigestLoop) (k : Nat) (a : State) : Prop where
  words  : a.words = l.words
  round  : a.rnd = l.round
  row    : feedbackRow k a.ob = l.feedback
  output : a.ob.toList.take k = l.output

theorem holdsLoop_start (s : State) : HoldsLoop (DigestLoop.start s.words s.rnd) 0 s where
  words := rfl
  round := rfl
  row := rfl
  output := rfl

/-- Emitting byte `k` extends the bytes emitted so far. -/
theorem take_succ_toList_set {k : Nat} (hk : k < 48) (ob : Vector Byte 48) (b : Byte) :
    (ob.set k b).toList.take (k + 1) = ob.toList.take k ++ [b] := by
  have hlen : k < (ob.set k b).toList.length := by simpa using hk
  rw [List.take_succ_eq_append_getElem hlen]
  simp [Vector.toList_set, List.take_set_of_le]

/-- A round of the engine is an iteration of the loop. -/
theorem afterRound_holdsLoop (cfg : Config) {l : DigestLoop} {k : Nat} {a : State} (hk : k < 48)
    (h : HoldsLoop l k a) :
    HoldsLoop (DigestLoop.iterate cfg l ⟨k, hk⟩) (k + 1) (afterRound cfg ⟨k, hk⟩ a) := by
  have hwords : (mixRound cfg (feedbackRow k a.ob) a).words =
      (DigestLoop.iterate cfg l ⟨k, hk⟩).words := by
    rw [mixRound_words, h.row, h.round, h.words]
    rfl
  have hbyte : extractByte (mixRound cfg (feedbackRow k a.ob) a).words (cfg.tables.finalSelector ⟨k, hk⟩) =
      extractByte (DigestLoop.iterate cfg l ⟨k, hk⟩).words (cfg.tables.finalSelector ⟨k, hk⟩) := by
    rw [hwords]
  refine ⟨?words, ?round, ?row, ?output⟩
  case words => rw [afterRound, emitByte_words, hwords]
  case round => rw [afterRound, emitByte_rnd, mixRound_rnd, h.round]; rfl
  case row => rw [afterRound, emitByte_ob, feedbackRow_succ_set hk, hbyte]; rfl
  case output => rw [afterRound, emitByte_ob, take_succ_toList_set hk, hbyte, mixRound_ob, h.output]; rfl

/-! ### The sequence, round by round -/

/-- The sequence that started from the state `s` stands in `a` before its round `k`, beside the source's
loop. -/
structure AtRound (cfg : Config) (s : State) (k : Nat) (a : State) : Prop where
  before : BeforeRound s.rnd.toNat k a
  loop   : HoldsLoop (sourceLoop cfg s.words s.rnd k) k a
  fin    : a.fin = s.fin

/-- The sequence that started from the state `s` has ended in `t`, with the source's digest. -/
structure HoldsDigest (cfg : Config) (s t : State) : Prop where
  words   : t.words = (sourceDigest cfg s.words s.rnd).words
  round   : t.rnd = (sourceDigest cfg s.words s.rnd).round
  output  : t.ob.toList = (sourceDigest cfg s.words s.rnd).output
  control : t.control = ⟨s.fin || cfg.lockOnDigest, .idle, 0, 256, true⟩

theorem atRound_zero (cfg : Config) {s : State} (h : AtFirstRound s) : AtRound cfg s 0 s :=
  ⟨beforeRound_zero h, holdsLoop_start s, rfl⟩

theorem atRound_succ {cfg : Config} {s a : State} {k : Nat} (hk : k < 48) (hnext : k + 1 < 48)
    (h : AtRound cfg s k a) : AtRound cfg s (k + 1) (afterRound cfg ⟨k, hk⟩ a) := by
  refine ⟨beforeRound_succ cfg hk hnext h.before, ?loop, ?fin⟩
  case loop =>
    rw [sourceLoop_succ cfg s.words s.rnd hk]
    exact afterRound_holdsLoop cfg hk h.loop
  case fin =>
    have hlast : ¬ k = 47 := by omega
    rw [afterRound, emitByte_fin, if_neg hlast, mixRound_fin, h.fin]

theorem holdsDigest_of_lastRound {cfg : Config} {s a : State} (h : AtRound cfg s 47 a) :
    HoldsDigest cfg s (afterRound cfg 47 a) := by
  have hloop : HoldsLoop (sourceDigest cfg s.words s.rnd) 48 (afterRound cfg 47 a) := by
    rw [← sourceLoop_48, sourceLoop_succ cfg s.words s.rnd (by decide : 47 < 48)]
    exact afterRound_holdsLoop cfg _ h.loop
  refine ⟨hloop.words, hloop.round, ?output, ?control⟩
  case output =>
    rw [← hloop.output, List.take_of_length_le (by simp)]
  case control => simp [State.control, afterRound, h.fin]

/-- A round carries the sequence to its next round, or ends it with the digest. -/
theorem finRound_of_atRound {cfg : Config} {s a : State} {k : Nat} (hk : k < 48) (h : AtRound cfg s k a) :
    ∃ b, finRound cfg a = .next b ∧
      ((k + 1 < 48 ∧ AtRound cfg s (k + 1) b) ∨ (k = 47 ∧ HoldsDigest cfg s b)) := by
  refine ⟨_, finRound_of_beforeRound cfg hk h.before, ?_⟩
  rcases Nat.lt_or_ge (k + 1) 48 with hnext | hlast
  · exact .inl ⟨hnext, atRound_succ hk hnext h⟩
  · obtain rfl : k = 47 := by omega
    exact .inr ⟨rfl, holdsDigest_of_lastRound h⟩

theorem exists_finRounds_atRound (cfg : Config) {s : State} (hs : AtFirstRound s) {k : Nat}
    (hk : k < 48) : ∃ a, finRounds cfg k s = .next a ∧ AtRound cfg s k a := by
  induction k with
  | zero => exact ⟨s, rfl, atRound_zero cfg hs⟩
  | succ k ih =>
    have hprev : k < 48 := Nat.lt_of_succ_lt hk
    obtain ⟨a, hrun, ha⟩ := ih hprev
    exact ⟨_, finRounds_succ_of_next hrun (finRound_of_beforeRound cfg hprev ha.before),
      atRound_succ hprev hk ha⟩

/-- The 48 rounds of a sequence leave the source's digest (R134). -/
theorem exists_finRounds_holdsDigest (cfg : Config) {s : State} (hs : AtFirstRound s) :
    ∃ t, finRounds cfg 48 s = .next t ∧ HoldsDigest cfg s t := by
  obtain ⟨a, hrun, ha⟩ := exists_finRounds_atRound cfg hs (by decide : 47 < 48)
  exact ⟨_, finRounds_succ_of_next hrun (finRound_of_beforeRound cfg (by decide) ha.before),
    holdsDigest_of_lastRound ha⟩

/-! ### What the rounds leave alone -/

/-- What no round of the engine touches: ERR and the host's side. -/
def State.hostSide (s : State) : BitVec 4 × Option HostAccess × List HostEvent × Option Response × Nat :=
  (s.err, s.port, s.host, s.resp, s.draws)

theorem finRound_hostSide {cfg : Config} {s t : State} (h : finRound cfg s = .next t) :
    t.hostSide = s.hostSide := by
  obtain ⟨n, i, -, -, rfl⟩ := finRound_next h
  simp [State.hostSide]

theorem finRounds_hostSide {cfg : Config} {k : Nat} {s t : State} (h : finRounds cfg k s = .next t) :
    t.hostSide = s.hostSide := by
  induction k generalizing s with
  | zero => cases h; rfl
  | succ k ih =>
    rw [finRounds] at h
    split at h
    next u hu => exact (ih h).trans (finRound_hostSide hu)
    next => cases h
    next => cases h

/-- The control registers, the host's side, the digest state and the buffer are the whole state. -/
theorem state_ext {s t : State} (hwords : s.words = t.words) (hrnd : s.rnd = t.rnd) (hob : s.ob = t.ob)
    (hcontrol : s.control = t.control) (hhost : s.hostSide = t.hostSide) : s = t := by
  cases s
  cases t
  simp only [State.control, State.hostSide, Control.mk.injEq, Prod.mk.injEq] at hcontrol hhost
  simp_all

/-- A buffer as the vector of the bytes that the source lists. -/
theorem eq_ofFn_of_toList_eq {ob : Vector Byte 48} {l : List Byte} (h : ob.toList = l) :
    ob = Vector.ofFn fun j => l.getD j.val 0 := by
  subst h
  ext j hj
  simp

/-- Settles O18: DIGEST sets up the first round, and the rounds run beside the source's loop. -/
theorem sequencedDigestEqualsSourceDigest : Obligations.SequencedDigestEqualsSourceDigest := by
  intro s hfin
  obtain ⟨t, hrun, ht⟩ :=
    exists_finRounds_holdsDigest Config.machine (s := startFinalization s) ⟨rfl, rfl, rfl, rfl⟩
  refine ⟨_, t, exec_digest_of_not_fin hfin, hrun, ?length, ?state⟩
  case length =>
    have hlength : t.ob.toList.length = 48 := by simp
    exact (congrArg List.length ht.output).symm.trans hlength
  case state =>
    have hob := eq_ofFn_of_toList_eq ht.output
    rw [startFinalization_words, startFinalization_rnd] at hob
    have hside := finRounds_hostSide hrun
    refine state_ext ht.words ht.round hob (ht.control.trans ?_) (hside.trans ?_)
    · simp [State.control, hfin]
    · simp [State.hostSide]

end Sys2Proof.Machine
end

section
/-! Runs under every schedule without a hardware reset (log 1): each step of a FINALIZING block uses up some
of a bounded number of steps, so IDLE is reached (70_reset_and_hazards.md R211), and a step that is not the
engine's leaves the sequence where it stands (42_finalize.md R134); O19 and O20. -/

namespace Sys2Proof.Machine

open Sys2Proof.Safety

/-! ### How many steps are left -/

/-- The steps that the host's events can take from the engine: one for each, but none for a poll that has
just read BUSY = 1, which gives the next step to the engine (log 15). -/
def eventSteps : List HostEvent → Nat
  | .poll true :: rest => rest.length
  | l => l.length

theorem eventSteps_le_length (l : List HostEvent) : eventSteps l ≤ l.length := by
  unfold eventSteps
  split
  · exact Nat.le_succ _
  · exact Nat.le_refl _

theorem length_le_eventSteps (l : List HostEvent) : l.length ≤ eventSteps l + 1 := by
  unfold eventSteps
  split
  · exact Nat.le_refl _
  · exact Nat.le_succ _

/-- The rounds until IDLE. -/
def roundsLeft (s : State) : Nat :=
  match s.mode with
  | .idle => 0
  | .finalizing => 48 - s.fidx.toNat

/-- A bound for the steps until IDLE: a round takes two where a poll reads between the rounds. -/
def stepsLeft (s : State) : Nat := eventSteps s.host + 2 * roundsLeft s

theorem roundsLeft_le (s : State) : roundsLeft s ≤ 48 - s.fidx.toNat := by
  unfold roundsLeft
  split
  · exact Nat.zero_le _
  · exact Nat.le_refl _

theorem roundsLeft_of_finalizing {s : State} (hm : s.mode = .finalizing) :
    roundsLeft s = 48 - s.fidx.toNat := by
  simp only [roundsLeft, hm]

theorem stepsLeft_le (s : State) : stepsLeft s ≤ s.host.length + 2 * (48 - s.fidx.toNat) := by
  have hevents := eventSteps_le_length s.host
  have hrounds := roundsLeft_le s
  unfold stepsLeft
  omega

/-! ### The host's events -/

/-- Every step takes at most one event from the list, as `hostAfter` says. -/
theorem step_host {s t : State} (h : step s = .next t) : t.host = hostAfter s := by
  cases stepEffect_of_step h with
  | hardwareReset _ ht => rw [ht, hardwareReset_host]
  | commandReset _ _ ht => rw [ht]; rfl
  | consume _ _ ht => rw [ht]; rfl
  | digest _ ht => rw [ht]; rfl
  | round _ n i _ _ ht => rw [ht, emitByte_host, mixRound_host]
  | outside _ _ ht => rw [ht]

/-- A step leaves the list as it is, takes its head, or turns the poll at its head over. -/
theorem hostAfter_cases (s : State) :
    hostAfter s = s.host ∨ (∃ e, s.host = e :: hostAfter s) ∨
      ∃ sent rest, s.host = .poll sent :: rest ∧ hostAfter s = .poll (!sent) :: rest := by
  cases hhost : s.host with
  | nil => exact .inl (by simp [hostAfter, hhost])
  | cons e rest =>
    cases e with
    | reset => exact .inr (.inl ⟨.reset, by simp [hostAfter, hhost]⟩)
    | quiet => exact .inr (.inl ⟨.quiet, by simp [hostAfter, hhost]⟩)
    | issue a =>
      cases hport : s.port with
      | some b => exact .inl (by simp [hostAfter, hhost, hport])
      | none => exact .inr (.inl ⟨.issue a, by simp [hostAfter, hhost, hport]⟩)
    | poll sent =>
      cases hport : s.port with
      | some b => exact .inl (by cases sent <;> simp [hostAfter, hhost, hport])
      | none =>
        cases sent with
        | true => exact .inr (.inr ⟨true, rest, rfl, by simp [hostAfter, hhost, hport]⟩)
        | false =>
          cases hbusy : busy s with
          | true => exact .inr (.inr ⟨false, rest, rfl, by simp [hostAfter, hhost, hport, hbusy]⟩)
          | false => exact .inr (.inl ⟨.poll false, by simp [hostAfter, hhost, hport, hbusy]⟩)

theorem hostAfter_length_le (s : State) : (hostAfter s).length ≤ s.host.length := by
  rcases hostAfter_cases s with hsame | ⟨e, htaken⟩ | ⟨sent, rest, hbefore, hafter⟩
  · rw [hsame]
  · rw [htaken]
    exact Nat.le_succ _
  · rw [hbefore, hafter]
    exact Nat.le_refl _

/-- What is left of a list without a hardware reset has none. -/
theorem noReset_hostAfter {s : State} (h : noReset s.host = true) : noReset (hostAfter s) = true := by
  rcases hostAfter_cases s with hsame | ⟨e, htaken⟩ | ⟨sent, rest, hbefore, hafter⟩
  · rw [hsame]
    exact h
  · rw [htaken] at h
    exact (Bool.and_eq_true_iff.mp h).2
  · rw [hbefore] at h
    rw [hafter]
    simpa [noReset] using h

theorem resets_of_noReset {s : State} (h : noReset s.host = true) : resets s = false := by
  unfold resets
  split
  next rest hh => simp [noReset, hh] at h
  next => rfl

/-- A step of a FINALIZING block that is neither the engine's nor a reset takes an event, or turns a poll
into one that waits for the engine. -/
theorem eventSteps_hostAfter_lt {s : State} (hm : s.mode = .finalizing) (hn : noReset s.host = true)
    (he : engineMoves s = false) : eventSteps (hostAfter s) < eventSteps s.host := by
  rcases host_of_not_engineMoves hm he with ⟨rest, hh⟩ | ⟨a, rest, hp, hh⟩ | ⟨rest, hp, hh⟩
  · simp [noReset, hh] at hn
  · have hafter : hostAfter s = rest := by simp only [hostAfter, hh, hp]
    rw [hafter, hh]
    exact Nat.lt_succ_of_le (eventSteps_le_length rest)
  · have hafter : hostAfter s = .poll true :: rest := by
      simp only [hostAfter, hh, hp, (busy_eq_true_iff s).mpr hm, if_true]
    rw [hafter, hh]
    exact Nat.lt_succ_self _

/-! ### A step of a FINALIZING block -/

/-- No command is accepted while FINALIZING (60_exceptions.md R175). -/
theorem acceptedCommand_of_finalizing {s : State} (hm : s.mode = .finalizing) :
    acceptedCommand s = none := by
  simp [acceptedCommand, acceptedAccess, hm]

/-- A step of a FINALIZING block that is neither the engine's nor a reset touches only ERR and the host's
side. -/
theorem step_outside {s t : State} (hm : s.mode = .finalizing) (hr : resets s = false)
    (he : engineMoves s = false) (h : step s = .next t) :
    t = { s with err := t.err, port := t.port, host := hostAfter s, resp := t.resp } := by
  have hnone := acceptedCommand_of_finalizing hm
  cases stepEffect_of_step h with
  | hardwareReset hr' => simp [hr] at hr'
  | commandReset _ ha => simp [hnone] at ha
  | consume _ ha => simp [hnone] at ha
  | digest ha => simp [hnone] at ha
  | round he' => simp [he] at he'
  | outside _ _ ht => exact ht

/-- The engine's step does one of the rounds left. -/
theorem roundsLeft_of_finRound {cfg : Config} {s t : State} (hm : s.mode = .finalizing)
    (h : finRound cfg s = .next t) : roundsLeft t + 1 = roundsLeft s := by
  obtain ⟨n, i, -, hi, rfl⟩ := finRound_next h
  have hindex := selectorIndex?_toNat hi
  have hlt := i.isLt
  rw [roundsLeft_of_finalizing hm, hindex]
  by_cases hlast : i.val = 47
  · simp [roundsLeft, hlast]
  · have hone : (1 : BitVec 6).toNat = 1 := rfl
    have hnext : (s.fidx + 1).toNat = i.val + 1 := by
      rw [BitVec.toNat_add_of_lt (by omega), hindex, hone]
    rw [roundsLeft_of_finalizing (by simp [hlast, hm]), emitByte_fidx, if_neg hlast, mixRound_fidx, hnext]
    omega

/-- A round takes two from the bound and may give one back to a poll; any other step takes an event. -/
theorem stepsLeft_lt {s t : State} (hm : s.mode = .finalizing) (hn : noReset s.host = true)
    (h : step s = .next t) : stepsLeft t < stepsLeft s := by
  have hhost := step_host h
  unfold stepsLeft
  rw [hhost]
  cases he : engineMoves s with
  | true =>
    rw [step_of_engineMoves he] at h
    have hrounds : roundsLeft t + 1 = roundsLeft s :=
      roundsLeft_of_finRound (s := { s with host := hostAfter s }) hm h
    have hafter := eventSteps_le_length (hostAfter s)
    have hlength := hostAfter_length_le s
    have hbefore := length_le_eventSteps s.host
    omega
  | false =>
    have hevents := eventSteps_hostAfter_lt hm hn he
    have hrounds : roundsLeft t = roundsLeft s := by
      rw [step_outside hm (resets_of_noReset hn) he h]
      rfl
    omega

/-! ### IDLE is reached -/

/-- From a state with a property that each step of a FINALIZING block answers and keeps, IDLE is reached with
that property within `stepsLeft`, and every state before is FINALIZING. -/
theorem exists_run_to_idle {P : State → Prop}
    (hP : ∀ u, P u → u.mode = .finalizing → noReset u.host = true → ∃ v, step u = .next v ∧ P v)
    {s : State} (hs : P s) (hn : noReset s.host = true) :
    ∃ k t, k ≤ stepsLeft s ∧ Sys2Proof.core.run k s = .next t ∧ t.mode = .idle ∧ P t ∧
      ∀ j, j < k → ∃ u : State, Sys2Proof.core.run j s = .next u ∧ u.mode = .finalizing := by
  induction hbound : stepsLeft s using Nat.strong_induction_on generalizing s with
  | _ n ih =>
    cases hm : s.mode with
    | idle => exact ⟨0, s, Nat.zero_le n, rfl, hm, hs, fun j hj => absurd hj (Nat.not_lt_zero j)⟩
    | finalizing =>
      obtain ⟨v, hv, hPv⟩ := hP s hs hm hn
      have hlt : stepsLeft v < n := hbound ▸ stepsLeft_lt hm hn hv
      have hnv : noReset v.host = true := step_host hv ▸ noReset_hostAfter hn
      obtain ⟨k, t, hk, hrun, ht, hPt, hbusy⟩ := ih _ hlt hPv hnv rfl
      refine ⟨k + 1, t, by omega, (run_succ_of_next Sys2Proof.core k s v hv).trans hrun, ht, hPt, ?_⟩
      intro j hj
      cases j with
      | zero => exact ⟨s, rfl, hm⟩
      | succ j =>
        obtain ⟨u, hu, hfinalizing⟩ := hbusy j (Nat.lt_of_succ_lt_succ hj)
        exact ⟨u, (run_succ_of_next Sys2Proof.core j s v hv).trans hu, hfinalizing⟩

/-- Settles O20: the invariant answers every step and is kept by it. -/
theorem holdAlwaysEnds : Obligations.HoldAlwaysEnds := by
  intro s hinv hn
  obtain ⟨k, t, hk, hrun, ht, -⟩ := exists_run_to_idle (P := MachineInv)
    (fun u hu _ _ => by
      obtain ⟨v, hv⟩ := theMachineNeverStops u hu
      exact ⟨v, hv, everyStepKeepsTheInvariant u v hu hv⟩) hinv hn
  exact ⟨k, t, hk.trans (stepsLeft_le s), hrun, ht⟩

/-! ### The sequence under a schedule -/

/-- What the host does to ERR and to its own side leaves the sequence where it stands. -/
theorem AtRound.outside {cfg : Config} {s a : State} {k : Nat} (h : AtRound cfg s k a) (e : BitVec 4)
    (p : Option HostAccess) (l : List HostEvent) (r : Option Response) :
    AtRound cfg s k { a with err := e, port := p, host := l, resp := r } :=
  ⟨⟨h.before.mode, h.before.fidx, h.before.row, h.before.rnd⟩,
    ⟨h.loop.words, h.loop.round, h.loop.row, h.loop.output⟩, h.fin⟩

/-- The sequence that started from `s` stands before one of its rounds, or has ended with the digest. -/
def InSequence (s u : State) : Prop :=
  (∃ k, k < 48 ∧ AtRound Config.machine s k u) ∨ HoldsDigest Config.machine s u

/-- A round goes on in the sequence; every other step leaves it where it stands. -/
theorem step_inSequence {s u : State} (hm : u.mode = .finalizing) (hn : noReset u.host = true)
    (h : InSequence s u) : ∃ v, step u = .next v ∧ InSequence s v := by
  rcases h with ⟨k, hk, hround⟩ | hdigest
  case inr =>
    have hidle : u.mode = .idle := congrArg Control.mode hdigest.control
    exact absurd (hm.symm.trans hidle) (by decide)
  case inl =>
    cases he : engineMoves u with
    | true =>
      have hhost := hround.outside u.err u.port (hostAfter u) u.resp
      obtain ⟨v, hv, hnext⟩ := finRound_of_atRound hk hhost
      refine ⟨v, (step_of_engineMoves he).trans hv, ?_⟩
      rcases hnext with ⟨hlt, hat⟩ | ⟨-, hend⟩
      · exact .inl ⟨k + 1, hlt, hat⟩
      · exact .inr hend
    | false =>
      obtain ⟨v, hv⟩ := step_answers (s := u) fun he' => absurd he' (by simp [he])
      refine ⟨v, hv, .inl ⟨k, hk, ?_⟩⟩
      rw [step_outside hm (resets_of_noReset hn) he hv]
      exact hround.outside _ _ _ _

/-- Settles O19: the run to IDLE stays in the sequence, and in IDLE the sequence has ended. -/
theorem digestIsTheSameUnderEverySchedule : Obligations.DigestIsTheSameUnderEverySchedule := by
  intro s hs hn
  obtain ⟨k, t, hk, hrun, hidle, hseq, hbusy⟩ := exists_run_to_idle (P := InSequence s)
    (fun u hu hm hnu => step_inSequence hm hnu hu) (.inl ⟨0, by decide, atRound_zero _ hs⟩) hn
  have hbound : k ≤ s.host.length + 96 := by
    have hle := hk.trans (stepsLeft_le s)
    omega
  rcases hseq with ⟨j, -, hround⟩ | hdigest
  · exact absurd (hround.before.mode.symm.trans hidle) (by decide)
  · exact ⟨k, t, hbound, hrun, hidle, congrArg Control.dvalid hdigest.control, hdigest.words,
      hdigest.round, hdigest.output, hbusy⟩

end Sys2Proof.Machine
end

section
/-! HASH run to its end (30_encoding.md R92, 43_control.md R154): RESET, the CONSUMEs, DIGEST, the rounds
behind the held read of DOUT0, and the reads; O23. -/

namespace Sys2Proof.Machine

open Sys2Proof.Safety

/-! ### Runs in parts -/

/-- The machine runs from `s` to `t`. -/
def Reaches (s t : State) : Prop := ∃ k, Sys2Proof.core.run k s = .next t

theorem Reaches.refl (s : State) : Reaches s s := ⟨0, rfl⟩

theorem Reaches.head {s t u : State} (h : step s = .next t) : Reaches t u → Reaches s u
  | ⟨k, hrun⟩ => ⟨k + 1, (run_succ_of_next Sys2Proof.core k s t h).trans hrun⟩

theorem run_trans {M : Host.Core} {j k : Nat} {s t u : M.State} (hst : M.run j s = .next t)
    (htu : M.run k t = .next u) : M.run (j + k) s = .next u := by
  induction j generalizing s with
  | zero =>
    cases hst
    rw [Nat.zero_add]
    exact htu
  | succ j ih =>
    rw [Nat.succ_add]
    unfold Host.Core.run at hst ⊢
    split at hst
    next v hv => exact ih hst
    next => cases hst
    next => cases hst

theorem Reaches.trans {s t u : State} : Reaches s t → Reaches t u → Reaches s u
  | ⟨_, hst⟩, ⟨_, htu⟩ => ⟨_, run_trans (M := Sys2Proof.core) hst htu⟩

/-! ### The commands before the sequence -/

/-- An IDLE block that is not finished, with no error and nothing outstanding, in the digest state `d`, whose
host is to issue `l`. -/
structure ReadyAt (d : Vector Word 6 × BitVec 8) (l : List HostEvent) (s : State) : Prop where
  mode  : s.mode = .idle
  port  : s.port = none
  host  : s.host = l
  fin   : s.fin = false
  err   : s.err = 0
  words : s.words = d.1
  rnd   : s.rnd = d.2

/-- A command that the host issues to an IDLE block is executed in that step (60_exceptions.md
R175). -/
theorem step_of_issueCommand {s : State} {i : Instr} {l : List HostEvent} (hidle : s.mode = .idle)
    (hport : s.port = none) (hhost : s.host = issueCommand i :: l) :
    step s = exec i (respond .writeOk { s with host := l }) := by
  have hdecode : decode (encode i) = .instr i := (decode_eq_instr_iff_eq_encode (encode i) i).mpr rfl
  rw [step_of_issue hport hhost]
  exact present_cmdWrite_of_idle (s := { s with host := l }) hidle hdecode

/-- RESET makes any IDLE block ready at a fresh digest state (43_control.md R150). -/
theorem step_reset_readyAt {s : State} {l : List HostEvent} (hidle : s.mode = .idle)
    (hport : s.port = none) (hhost : s.host = issueCommand .reset :: l) :
    ∃ t, step s = .next t ∧ ReadyAt (Vector.ofFn Config.machine.tables.initVector, 0) l t :=
  ⟨_, step_of_issueCommand hidle hport hhost, hidle, hport, rfl, rfl, rfl, rfl, rfl⟩

/-- CONSUME is one step of the source's fold (41_update.md R120). -/
theorem step_consume_readyAt {d : Vector Word 6 × BitVec 8} {b : Byte} {l : List HostEvent} {s : State}
    (h : ReadyAt d (issueCommand (.consume b) :: l) s) :
    ∃ t, step s = .next t ∧ ReadyAt (sourceConsume Config.machine d b) l t := by
  refine ⟨_, (step_of_issueCommand h.mode h.port h.host).trans (exec_consume_of_not_fin b h.fin), ?_⟩
  refine ⟨h.mode, h.port, rfl, h.fin, h.err, ?words, ?rnd⟩
  case words => simp [sourceConsume, h.words, h.rnd]
  case rnd => simp [sourceConsume, h.rnd]

/-- Feeding a message carries the digest state over its bytes (R125). -/
theorem reaches_feed {bs : List Byte} {d : Vector Word 6 × BitVec 8} {l : List HostEvent} {s : State}
    (h : ReadyAt d (feedEvents bs ++ l) s) :
    ∃ t, Reaches s t ∧ ReadyAt (sourceUpdate Config.machine d bs) l t := by
  induction bs generalizing d s with
  | nil => exact ⟨s, .refl s, h⟩
  | cons b bs ih =>
    obtain ⟨t, hst, ht⟩ := step_consume_readyAt (l := feedEvents bs ++ l) h
    obtain ⟨u, htu, hu⟩ := ih ht
    exact ⟨u, htu.head hst, hu⟩

/-- DIGEST brings a ready block to the first round of its digest state (42_finalize.md R130). -/
theorem step_digest_readyAt {d : Vector Word 6 × BitVec 8} {l : List HostEvent} {s : State}
    (h : ReadyAt d (issueCommand .digest :: l) s) :
    ∃ t, step s = .next t ∧ AtFirstRound t ∧ t.words = d.1 ∧ t.rnd = d.2 ∧ t.port = none ∧ t.host = l ∧
      t.err = 0 :=
  ⟨_, (step_of_issueCommand h.mode h.port h.host).trans (exec_digest_of_not_fin h.fin),
    ⟨rfl, rfl, rfl, rfl⟩, h.words, h.rnd, h.port, rfl, h.err⟩

/-! ### The rounds behind a held access -/

/-- While an access is held and the host's next one waits, the machine's steps are the rounds (log 13). -/
theorem run_of_finRounds {k : Nat} {s t : State} {a b : HostAccess} {l : List HostEvent}
    (hport : s.port = some a) (hhost : s.host = .issue b :: l)
    (hbusy : ∀ j, j < k → ∃ u, finRounds Config.machine j s = .next u ∧ u.mode = .finalizing)
    (h : finRounds Config.machine k s = .next t) : Sys2Proof.core.run k s = .next t := by
  induction k generalizing s with
  | zero => exact h
  | succ k ih =>
    obtain ⟨_, hs, hm⟩ := hbusy 0 (Nat.zero_lt_succ k)
    cases hs
    have hstep : step s = finRound Config.machine s := by
      simp only [step, stepInstance, hhost, hport, advance, hm]
    rw [finRounds] at h
    split at h
    case h_1 u hu =>
      have hside := finRound_hostSide hu
      simp only [State.hostSide, Prod.mk.injEq] at hside
      obtain ⟨-, hportEq, hhostEq, -⟩ := hside
      refine (run_succ_of_next Sys2Proof.core k s u (hstep.trans hu)).trans
        (ih (hportEq.trans hport) (hhostEq.trans hhost) (fun j hj => ?_) h)
      obtain ⟨v, hv, hfinalizing⟩ := hbusy (j + 1) (Nat.succ_lt_succ hj)
      simp only [finRounds, hu] at hv
      exact ⟨v, hv, hfinalizing⟩
    case h_2 => cases h
    case h_3 => cases h

/-- A sequence behind a held access runs to its digest. -/
theorem reaches_holdsDigest {s : State} {a b : HostAccess} {l : List HostEvent} (hs : AtFirstRound s)
    (hport : s.port = some a) (hhost : s.host = .issue b :: l) :
    ∃ t, Reaches s t ∧ HoldsDigest Config.machine s t ∧ t.hostSide = s.hostSide := by
  obtain ⟨t, hrun, ht⟩ := exists_finRounds_holdsDigest Config.machine hs
  refine ⟨t, ⟨48, run_of_finRounds hport hhost (fun j hj => ?_) hrun⟩, ht, finRounds_hostSide hrun⟩
  obtain ⟨u, hu, hround⟩ := exists_finRounds_atRound Config.machine hs hj
  exact ⟨u, hu, hround.before.mode⟩

/-! ### The reads after the sequence -/

/-- The reads of the DOUT registers `js`, in order. -/
def doutReads (js : List (Fin 6)) : List HostEvent := js.map fun j => issueRead (.dout j)

/-- READDIGEST's first read, those between, and the last (30_encoding.md R91). -/
theorem readDigestEvents_eq :
    readDigestEvents = issueRead (.dout 0) :: (doutReads [1, 2, 3, 4] ++ [issueRead (.dout 5)]) := by
  decide

/-- An IDLE block answers reads one by one, which changes the response only. -/
theorem reaches_doutReads {js : List (Fin 6)} {l : List HostEvent} {s : State} (hidle : s.mode = .idle)
    (hport : s.port = none) (hhost : s.host = doutReads js ++ l) :
    ∃ r, Reaches s { s with host := l, resp := r } := by
  induction js generalizing s with
  | nil =>
    have hl : s.host = l := hhost
    exact ⟨s.resp, by rw [← hl]; exact .refl s⟩
  | cons j js ih =>
    obtain ⟨r, hr⟩ := ih (s := { s with
      host := doutReads js ++ l,
      resp := some { ok := true, data := some (readRegister Config.machine (.dout j) s) } }) hidle hport rfl
    exact ⟨r, hr.head (step_read_answered (r := .dout j) hport hhost (.inl hidle))⟩

/-- A read held until IDLE is answered before the host's next access (70_reset_and_hazards.md R210). -/
theorem step_held_read {s : State} {r : Reg} {b : HostAccess} {l : List HostEvent}
    (hidle : s.mode = .idle) (hport : s.port = some (HostAccess.readAt r.offset))
    (hhost : s.host = .issue b :: l) : ∃ r, step s = .next { s with port := none, resp := r } := by
  have hreset : resets s = false := by simp [resets, hhost]
  obtain ⟨-, hloud, -⟩ := heldAccessProceedsAsIfIssuedAfterwards s _ hport hreset
  have hread := step_read_answered (s := { s with
    port := none, host := .issue (HostAccess.readAt r.offset) :: s.host }) (r := r) rfl rfl (.inl hidle)
  exact ⟨_, (hloud hidle fun rest => by simp [hhost]).trans hread⟩

/-- From its first round a sequence whose host is to read the digest runs to the last read: the first is
held until IDLE, the others follow. -/
theorem reaches_digestRead {s : State} (hs : AtFirstRound s) (hport : s.port = none)
    (hhost : s.host = readDigestEvents) :
    ∃ t, Reaches s t ∧ HoldsDigest Config.machine s t ∧ t.host = [] ∧ t.port = none ∧ t.err = s.err ∧
      t.resp = some { ok := true, data := some (doutWord t.ob 5) } := by
  rw [readDigestEvents_eq] at hhost
  have hheld := step_read_held (r := .dout 0) hport hhost hs.1 rfl
  obtain ⟨t, hrun, hdigest, hside⟩ := reaches_holdsDigest (s := { s with
    host := doutReads [1, 2, 3, 4] ++ [issueRead (.dout 5)],
    port := some (HostAccess.readAt (Reg.dout 0).offset) }) hs rfl rfl
  simp only [State.hostSide, Prod.mk.injEq] at hside
  obtain ⟨herr, htport, hthost, -⟩ := hside
  have hidle : t.mode = .idle := congrArg Control.mode hdigest.control
  obtain ⟨r₀, hfirst⟩ := step_held_read hidle htport hthost
  obtain ⟨r, hreads⟩ := reaches_doutReads (s := { t with port := none, resp := r₀ }) hidle rfl hthost
  have hlast := step_read_answered (s := { t with port := none, host := [issueRead (.dout 5)], resp := r })
    (r := .dout 5) rfl rfl (.inl hidle)
  exact ⟨_, ((hrun.trans (hreads.head hfirst)).trans (Reaches.head hlast (.refl _))).head hheld,
    ⟨hdigest.words, hdigest.round, hdigest.output, hdigest.control⟩, rfl, rfl, herr, rfl⟩

/-! ### The round counter of the source -/

theorem sourceUpdate_round (cfg : Config) (bs : List Byte) (d : Vector Word 6 × BitVec 8) :
    (sourceUpdate cfg d bs).2 = d.2 + BitVec.ofNat 8 bs.length := by
  induction bs generalizing d with
  | nil => exact (BitVec.add_zero d.2).symm
  | cons b bs ih =>
    have hstep : (sourceConsume cfg d b).2 = d.2 + 1 := rfl
    calc (sourceUpdate cfg d (b :: bs)).2
      _ = (sourceConsume cfg d b).2 + BitVec.ofNat 8 bs.length := ih _
      _ = d.2 + (1 + BitVec.ofNat 8 bs.length) := by rw [hstep, BitVec.add_assoc]
      _ = d.2 + BitVec.ofNat 8 (b :: bs).length := by
        rw [List.length_cons, Nat.add_comm bs.length, BitVec.ofNat_add]
        rfl

/-- One round for each byte, and 48 for the finalization (42_finalize.md R136). -/
theorem sourceCompute_round (cfg : Config) (bs : List Byte) :
    (sourceCompute cfg bs).round = BitVec.ofNat 8 (bs.length + 48) := by
  rw [sourceCompute, ← sourceLoop_48, sourceLoop_round cfg _ _ (Nat.le_refl 48), sourceUpdate_round,
    BitVec.ofNat_add]
  exact congrArg (· + _) (BitVec.zero_add _)

/-- Settles O23: the four parts of HASH, one after the other. -/
theorem hashComputesTheSourceDigest : Obligations.HashComputesTheSourceDigest := by
  intro bs s hidle hport hhost
  obtain ⟨a, hsa, ha⟩ := step_reset_readyAt (l := feedEvents bs ++ issueCommand .digest :: readDigestEvents)
    hidle hport hhost
  obtain ⟨b, hab, hb⟩ := reaches_feed ha
  obtain ⟨c, hbc, hfirst, hwords, hrnd, hcport, hchost, hcerr⟩ := step_digest_readyAt hb
  obtain ⟨t, hct, hdigest, hthost, htport, hterr, hresp⟩ := reaches_digestRead hfirst hcport hchost
  obtain ⟨k, hrun⟩ := (hab.trans (hct.head hbc)).head hsa
  have hcompute : sourceDigest Config.machine c.words c.rnd = sourceCompute Config.machine bs := by
    rw [hwords, hrnd, sourceCompute]
  refine ⟨k, t, hrun, hthost, htport, congrArg Control.mode hdigest.control, ?output, ?round,
    congrArg Control.dvalid hdigest.control, hterr.trans hcerr, hresp⟩
  case output => rw [hdigest.output, hcompute]
  case round => rw [hdigest.round, hcompute, sourceCompute_round]

end Sys2Proof.Machine
end
